-- ==== Sys2Proof/Word.lean ====
section
/-! DEFINITION. The word types of the block and the 7-byte frame (spec/00_scope.md R6 to R8). -/

namespace Sys2Proof

/-- A byte is 8 bits (R7). -/
abbrev Byte := BitVec 8

/-- A nibble is 4 bits (R7). -/
abbrev Nibble := BitVec 4

/-- A remote's address, `ID_WIDTH` = 24 bits (R6). -/
abbrev RemoteId := BitVec 24

/-- The rolling code inside a frame, `CODE_FIELD_WIDTH` = 16 bits (R6). -/
abbrev CodeField := BitVec 16

/-- An opaque storage-slot identifier with decidable equality (R6, D27). The rules only ever compare slots; that they
are numbered serves the canonical form of the store alone. DESIGN CHOICE, log 7. -/
abbrev Slot := Nat

/-- A frame, `F[0..6]`: 7 bytes, written byte 0 first (R8). -/
structure Frame where
  b0 : Byte
  b1 : Byte
  b2 : Byte
  b3 : Byte
  b4 : Byte
  b5 : Byte
  b6 : Byte
  deriving DecidableEq, Repr

end Sys2Proof
end

