-- ==== Sys2Proof/Syntax.lean ====
section
/-! DEFINITION. The operations of the block, one constructor per row of spec/opcode_table.json, and the requests by which
the host names them (spec/30_encoding.md). -/

namespace Sys2Proof

/-- The command operand: exactly the four constructors of R82 and R83. -/
inductive Command where
  | up
  | stop
  | down
  | prog
  deriving DecidableEq, Repr

/-- The opcode table's rows. -/
inductive Instr where
  /-- `BUILD_FRAME(rid, cmd, code)`, R117. -/
  | buildFrame (rid : RemoteId) (cmd : Command) (code : CodeField)
  /-- `CURRENT_CODE(s)`, R140. The slot need not be a profile's (log 32). -/
  | currentCode (slot : Slot)
  /-- `TAKE_AND_ADVANCE(s, D)`, R141. The slot need not be a profile's (log 32). -/
  | takeAndAdvance (slot : Slot) (dflt : Nat)
  /-- `RESET_ALL(defaultsBySlot)`, R148. The slots need not be profiles' (log 32). -/
  | resetAll (defaults : List (Slot × Nat))
  /-- `TRANSMIT_BURST(G)`, R174. -/
  | transmitBurst (frame : Frame)
  /-- `SEND_COMMAND(r, cmd)`, R200. -/
  | sendCommand (remote : Nat) (cmd : Command)
  /-- An operation with a reserved selector, R90. -/
  | reservedSelector (op : Byte)
  /-- Command UP, R118. -/
  | up (rid : RemoteId) (code : CodeField)
  /-- Command STOP, R119. -/
  | stop (rid : RemoteId) (code : CodeField)
  /-- Command DOWN, R120. -/
  | down (rid : RemoteId) (code : CodeField)
  /-- Command PROG, R121. -/
  | prog (rid : RemoteId) (code : CodeField)
  /-- `SEND r, 'u'`, R205. -/
  | sendU (remote : Nat)
  /-- `SEND r, 's'`, R205. -/
  | sendS (remote : Nat)
  /-- `SEND r, 'd'`, R205. -/
  | sendD (remote : Nat)
  /-- `SEND r, 'p'`, R205. -/
  | sendP (remote : Nat)
  deriving DecidableEq, Repr

/-- The operand lanes beside the selector: "Operands travel beside the selector as typed values, not as bits of a word"
(R89). Each operation reads its own lanes only. -/
structure Operands where
  rid      : RemoteId
  cmd      : Command
  code     : CodeField
  slot     : Slot
  dflt     : Nat
  defaults : List (Slot × Nat)
  frame    : Frame
  remote   : Nat
  deriving DecidableEq, Repr

/-- What the host can put to the block. The opcode table has three formats over one byte space (selector, command
nibble of a frame, payload letter), so a request says which one its bytes are in. DESIGN CHOICE, log 8 and log 9. -/
inductive Request where
  /-- An operation selector with its operands (R89). -/
  | select (op : Byte) (args : Operands)
  /-- The 7 bytes of a checksummed frame `S`, whose byte 1 carries a command nibble (R80, R82). -/
  | frame (bytes : List Byte)
  /-- A payload for the remote of profile index `remote` (R91, R205). -/
  | payload (remote : Nat) (bytes : List Byte)
  deriving DecidableEq, Repr

end Sys2Proof
end

