-- ==== Sys2Proof/Machine/Operands.lean ====
section
/-! DEFINITION. Operand forms: the encodings of commands, letters and selectors (spec/30_encoding.md), the assembly of
operands into frame bytes (R86), the bits and nibbles of a frame (R8, R59) and the frame code (R147). -/

namespace Sys2Proof.Machine

/-! ## Encoding tables -/

/-- `CMD`, R82. -/
def commandNibble : Command → Nibble
  | .up => 0x2#4
  | .stop => 0x1#4
  | .down => 0x4#4
  | .prog => 0x8#4

/-- R82 read backwards; the other twelve nibbles are reserved (R83). -/
def commandOfNibble (n : Nibble) : Option Command :=
  if n = 0x2#4 then some .up
  else if n = 0x1#4 then some .stop
  else if n = 0x4#4 then some .down
  else if n = 0x8#4 then some .prog
  else none

/-- The payload letters of R91 as bytes. The byte values are ASCII, which the spec takes from general knowledge (G1).
PRESUMED, log 10. -/
def payloadLetter : Command → Byte
  | .up => 0x75#8
  | .stop => 0x73#8
  | .down => 0x64#8
  | .prog => 0x70#8

/-- R91 read backwards. -/
def commandOfLetter (b : Byte) : Option Command :=
  if b = 0x75#8 then some .up
  else if b = 0x73#8 then some .stop
  else if b = 0x64#8 then some .down
  else if b = 0x70#8 then some .prog
  else none

/-- The operation selectors `OP` of R89. -/
def opBuildFrame : Byte := 0x01#8
def opCurrentCode : Byte := 0x02#8
def opTakeAndAdvance : Byte := 0x03#8
def opResetAll : Byte := 0x04#8
def opTransmitBurst : Byte := 0x05#8
def opSendCommand : Byte := 0x06#8

/-! ## Operand assembly (R86) -/

/-- `CMD(cmd) << 4`, low nibble 0. -/
def commandByte (cmd : Command) : Byte := (commandNibble cmd).setWidth 8 <<< 4

def codeHigh (code : CodeField) : Byte := code.extractLsb' 8 8
def codeLow (code : CodeField) : Byte := code.extractLsb' 0 8
def ridHigh (rid : RemoteId) : Byte := rid.extractLsb' 16 8
def ridMiddle (rid : RemoteId) : Byte := rid.extractLsb' 8 8
def ridLow (rid : RemoteId) : Byte := rid.extractLsb' 0 8

/-- `FRAME_CODE(c) = c mod 2^16`, R147. -/
def frameCode (c : Nat) : CodeField := BitVec.ofNat 16 c

/-! ## Bytes, nibbles and bits of a frame -/

/-- The bytes of a frame in the order 0 to 6 (R8). -/
def frameBytes (f : Frame) : List Byte := [f.b0, f.b1, f.b2, f.b3, f.b4, f.b5, f.b6]

/-- `F[i]`; 0 past the last byte, which no rule reads. -/
def frameByte (f : Frame) (i : Nat) : Byte := (frameBytes f).getD i 0#8

def highNibble (b : Byte) : Nibble := b.extractLsb' 4 4
def lowNibble (b : Byte) : Nibble := b.extractLsb' 0 4

/-- The XOR of the 14 nibbles of a frame (R112). -/
def nibbleXor (f : Frame) : Nibble :=
  (frameBytes f).foldl (fun (acc : Nibble) (b : Byte) => acc ^^^ (highNibble b ^^^ lowNibble b)) 0#4

/-- Bit number n on the air, n = 0 for the first bit sent: `G[n div 8]` bit `7 - (n mod 8)` (R59). -/
def airBit (g : Frame) (n : Nat) : Bool := (frameByte g (n / 8)).getLsbD (7 - n % 8)

end Sys2Proof.Machine
end

