-- ==== Sys2Proof/Machine/FrameCodec.lean ====
section
/-! DEFINITION. The frame codec's stages (spec/40_frame_codec.md R110 to R117) and the receiver's inverse, kept as a law
(R122). The codec holds no state (R32). -/

namespace Sys2Proof.Machine

/-- `KEY`, the constant byte 0 (R81). -/
def keyByte : Byte := 0xA7#8

/-- `ASSEMBLE`, R110. -/
def assemble (rid : RemoteId) (cmd : Command) (code : CodeField) : Frame :=
  { b0 := keyByte
    b1 := commandByte cmd
    b2 := codeHigh code
    b3 := codeLow code
    b4 := ridHigh rid
    b5 := ridMiddle rid
    b6 := ridLow rid }

/-- The accumulator of `CHECKSUM`'s loop, 8 bits (R111). -/
def checksumAcc (p : Frame) : Byte :=
  (frameBytes p).foldl (fun (acc b : Byte) => acc ^^^ b ^^^ (b >>> 4)) 0#8

/-- `CHECKSUM`, R111: the accumulator masked to its low 4 bits. -/
def checksum (p : Frame) : Nibble := (checksumAcc p &&& 0x0F#8).setWidth 4

/-- `INSERT`, R113: OR into byte 1's low nibble. -/
def insertChecksum (p : Frame) (c : Nibble) : Frame := { p with b1 := p.b1 ||| c.setWidth 8 }

/-- `OBFUSCATE`, R115: strictly left to right, each byte with the already obfuscated byte before it. -/
def obfuscate (s : Frame) : Frame :=
  let g1 := s.b1 ^^^ s.b0
  let g2 := s.b2 ^^^ g1
  let g3 := s.b3 ^^^ g2
  let g4 := s.b4 ^^^ g3
  let g5 := s.b5 ^^^ g4
  let g6 := s.b6 ^^^ g5
  { b0 := s.b0, b1 := g1, b2 := g2, b3 := g3, b4 := g4, b5 := g5, b6 := g6 }

/-- The checksummed frame `S` of R117. -/
def checkedFrame (rid : RemoteId) (cmd : Command) (code : CodeField) : Frame :=
  let p := assemble rid cmd code
  insertChecksum p (checksum p)

/-- The frame `G` that goes on the air: assemble, checksum, insert, obfuscate (R117). -/
def buildFrame (rid : RemoteId) (cmd : Command) (code : CodeField) : Frame :=
  obfuscate (checkedFrame rid cmd code)

/-- `DEOBFUSCATE`, R122, read from the obfuscated frame. The block never decodes; this is the law's other half. -/
def deobfuscate (g : Frame) : Frame :=
  { b0 := g.b0
    b1 := g.b1 ^^^ g.b0
    b2 := g.b2 ^^^ g.b1
    b3 := g.b3 ^^^ g.b2
    b4 := g.b4 ^^^ g.b3
    b5 := g.b5 ^^^ g.b4
    b6 := g.b6 ^^^ g.b5 }

end Sys2Proof.Machine
end

