-- ==== Sys2Proof/WellFormed.lean ====
section
/-! DEFINITION. The operand ranges that the types of Syntax.lean do not already bound. `cw` is `CODE_WIDTH`. -/

namespace Sys2Proof

/-- The selectors of R90: 0x00 and 0x07 to 0xFF. -/
def isReservedSelector (op : Byte) : Bool :=
  decide (op.toNat = 0) || decide (7 ≤ op.toNat)

/-- Defaults are `CODE_WIDTH` bits unsigned (R141, R148); a reserved selector is one of R90. Everything else is bounded
by its type ("No input is out of range, because the operand types bound them", R110). -/
def Instr.wellFormed (cw : Nat) : Instr → Bool
  | .buildFrame _ _ _ => true
  | .currentCode _ => true
  | .takeAndAdvance _ d => decide (d < 2 ^ cw)
  | .resetAll defaults => defaults.all fun sd => decide (sd.2 < 2 ^ cw)
  | .transmitBurst _ => true
  | .sendCommand _ _ => true
  | .reservedSelector op => isReservedSelector op
  | .up _ _ => true
  | .stop _ _ => true
  | .down _ _ => true
  | .prog _ _ => true
  | .sendU _ => true
  | .sendS _ => true
  | .sendD _ => true
  | .sendP _ => true

end Sys2Proof
end

