-- ==== Sys2Proof/Decode.lean ====
section
/-! DEFINITION. Decoding a request into an instruction, total and rejecting by name, and the encoder
(spec/30_encoding.md R80 to R91; spec/opcode_table.json). -/

namespace Sys2Proof

open Machine

/-- Why a request names no instruction. -/
inductive Reject where
  /-- A payload that is not exactly one of the four letters (R91, R205). The block answers it with
  `MalformedCommand`, so it is no stop of the machine. -/
  | malformedPayload (bytes : List Byte)
  /-- A frame whose command nibble is one of the twelve reserved values (R83, I6). -/
  | reservedCommandNibble (n : Nibble)
  /-- Bytes that are no frame: not 7 bytes (R80) or a byte 0 other than 0xA7 (R81). -/
  | notAFrame (bytes : List Byte)
  deriving DecidableEq, Repr

/-- The instruction a selector and its operand lanes name (R89); every other selector is reserved (R90). -/
def decodeSelector (op : Byte) (a : Operands) : Instr :=
  if op = opBuildFrame then .buildFrame a.rid a.cmd a.code
  else if op = opCurrentCode then .currentCode a.slot
  else if op = opTakeAndAdvance then .takeAndAdvance a.slot a.dflt
  else if op = opResetAll then .resetAll a.defaults
  else if op = opTransmitBurst then .transmitBurst a.frame
  else if op = opSendCommand then .sendCommand a.remote a.cmd
  else .reservedSelector op

/-- The command row with its operands. -/
def commandInstr (cmd : Command) (rid : RemoteId) (code : CodeField) : Instr :=
  match cmd with
  | .up => .up rid code
  | .stop => .stop rid code
  | .down => .down rid code
  | .prog => .prog rid code

/-- The payload row with its operand. -/
def sendInstr (cmd : Command) (remote : Nat) : Instr :=
  match cmd with
  | .up => .sendU remote
  | .stop => .sendS remote
  | .down => .sendD remote
  | .prog => .sendP remote

/-- The command row that the fields of a checksummed frame name (R80, R82). The table masks byte 1 with 0xF0, so its
checksum nibble is not read (log 9). -/
def decodeFrame (bytes : List Byte) : Except Reject Instr :=
  match bytes with
  | [b0, b1, b2, b3, b4, b5, b6] =>
    if b0 = keyByte then
      match commandOfNibble (highNibble b1) with
      | some cmd => .ok (commandInstr cmd (b4 ++ b5 ++ b6) (b2 ++ b3))
      | none => .error (.reservedCommandNibble (highNibble b1))
    else .error (.notAFrame bytes)
  | _ => .error (.notAFrame bytes)

/-- The payload row a payload names (R91): exactly one byte, one of the four letters. -/
def decodePayload (remote : Nat) (bytes : List Byte) : Except Reject Instr :=
  match bytes with
  | [b] =>
    match commandOfLetter b with
    | some cmd => .ok (sendInstr cmd remote)
    | none => .error (.malformedPayload bytes)
  | _ => .error (.malformedPayload bytes)

/-- Decoding, total on any request. -/
def decode : Request → Except Reject Instr
  | .select op a => .ok (decodeSelector op a)
  | .frame bytes => decodeFrame bytes
  | .payload remote bytes => decodePayload remote bytes

/-! ## The encoder -/

/-- Every operand lane at zero; the command lane, which has no zero, at R82's first constructor. -/
def zeroOperands : Operands :=
  { rid := 0#24, cmd := .up, code := 0#16, slot := 0, dflt := 0, defaults := []
    frame := { b0 := 0#8, b1 := 0#8, b2 := 0#8, b3 := 0#8, b4 := 0#8, b5 := 0#8, b6 := 0#8 }, remote := 0 }

/-- The request that names an instruction: its selector and operands (R89), the frame that carries its command nibble
(R80, R82), or its payload letter (R91). -/
def encode : Instr → Request
  | .buildFrame rid cmd code => .select opBuildFrame { zeroOperands with rid := rid, cmd := cmd, code := code }
  | .currentCode slot => .select opCurrentCode { zeroOperands with slot := slot }
  | .takeAndAdvance slot d => .select opTakeAndAdvance { zeroOperands with slot := slot, dflt := d }
  | .resetAll defaults => .select opResetAll { zeroOperands with defaults := defaults }
  | .transmitBurst g => .select opTransmitBurst { zeroOperands with frame := g }
  | .sendCommand r cmd => .select opSendCommand { zeroOperands with remote := r, cmd := cmd }
  | .reservedSelector op => .select op zeroOperands
  | .up rid code => .frame (frameBytes (checkedFrame rid .up code))
  | .stop rid code => .frame (frameBytes (checkedFrame rid .stop code))
  | .down rid code => .frame (frameBytes (checkedFrame rid .down code))
  | .prog rid code => .frame (frameBytes (checkedFrame rid .prog code))
  | .sendU r => .payload r [payloadLetter .up]
  | .sendS r => .payload r [payloadLetter .stop]
  | .sendD r => .payload r [payloadLetter .down]
  | .sendP r => .payload r [payloadLetter .prog]

/-! ## One byte of the opcode table -/

/-- The request that carries the byte `b` of an opcode-table row, every operand at zero. A row gives no port, so the
byte is taken in the narrowest format that has a row for it: a payload letter, a command nibble, else a selector. A
reserved selector that is also a letter or carries a command nibble is reached by `Request.select` only. DESIGN CHOICE,
log 8. -/
def tableRequest (b : Byte) : Request :=
  match commandOfLetter b with
  | some _ => .payload 0 [b]
  | none =>
    match commandOfNibble (highNibble b) with
    | some _ => .frame [keyByte, b, 0#8, 0#8, 0#8, 0#8, 0#8]
    | none => .select b zeroOperands

/-- The instruction the decoder reads from a row's bits. Every row of the table is one byte. -/
def decodeTableWord (nbits w : Nat) : Option Instr :=
  if nbits = 8 then
    match decode (tableRequest (BitVec.ofNat 8 w)) with
    | .ok i => some i
    | .error _ => none
  else none

end Sys2Proof
end

