-- ==== Sys2Proof/Config.lean ====
section
/-! DEFINITION. The launch configuration `CONFIG` (spec/10_state.md R21) and what the spec leaves open as a named
parameter or a draw: `JITTER_US` (D4) and the failure draws of the persistence backend (R53, I3). -/

namespace Sys2Proof

/-- One record of `PROFILES` (R21). `id` and `defaultCode` are unbounded because the configuration boundary may supply
integers wider than the fields; the boot check refuses those (R252, checks 4 and 5). `topicKey` and `travelTimeMs` are
carried for the surrounding software (R22). -/
structure Profile where
  id           : Nat
  defaultCode  : Nat
  slot         : Slot
  topicKey     : List Byte
  travelTimeMs : Nat
  deriving DecidableEq, Repr

/-- `CONFIG` (R21): the profiles in configuration order and `RESET_REQ`. -/
structure Configuration where
  profiles : List Profile
  resetReq : Bool
  deriving DecidableEq, Repr

/-- `JITTER_US`, the allowed deviation of a segment's real duration in µs: OPEN (R6, R177, D4). It has no body that a
proof could see. -/
opaque Config.jitterUs : Nat

/-- Whether the n-th call of the persistence backend fails: a draw, any value at every call (R53, I3). It answers only
where the state's own list of draws has ended (log 3). It has no body that a proof could see. -/
opaque Config.backendFails : Nat → Bool

end Sys2Proof
end

