-- ==== Sys2Proof/Machine/State.lean ====
section
/-! DEFINITION. The architectural state of the block (spec/10_state.md), the error records (spec/60_exceptions.md R220),
the events the outside brings, and the reasons for which a step can stop. All of it is plain data. -/

namespace Sys2Proof.Machine

/-! ## The store -/

/-- `Cell = ABSENT | VALUE(v)` (R24). -/
inductive Cell where
  | absent
  | value (v : Nat)
  deriving DecidableEq, Repr

/-- `STORE` (R24): the slots that hold a value, strictly rising; an unlisted slot is `ABSENT`. A cell is an integer, not
bytes (R57). Log 6, log 7. -/
abbrev Memory := List (Slot × Nat)

/-! ## Phase, line and transmitter -/

/-- `PHASE` (R23). -/
inductive Phase where
  | startup
  | run
  | halted
  deriving DecidableEq, Repr

/-- The level of the output line (R26). -/
inductive Level where
  | low
  | high
  deriving DecidableEq, Repr

/-- One segment: a level and a nominal duration in µs (R28). -/
structure Segment where
  level    : Level
  duration : Nat
  deriving DecidableEq, Repr

/-- `TX` (R27): `IDLE`, or `BUSY(G, k, j)` with the frame latch `G`, the physical transmission `k` and the segment `j`. -/
inductive Tx where
  | idle
  | busy (g : Frame) (k : Fin 3) (j : Nat)
  deriving DecidableEq, Repr

/-! ## Errors and results -/

/-- The store primitive that failed (R220). -/
inductive Stage where
  | read
  | write
  | commit
  deriving DecidableEq, Repr

/-- The check of R252 that failed. -/
inductive ConfigReason where
  | dupId
  | dupKey
  | dupSlot
  | idRange
  | defaultRange
  deriving DecidableEq, Repr

/-- What was malformed: a payload (R205) or a profile index (R206). -/
inductive Malformed where
  | payload (bytes : List Byte)
  | remote (r : Nat)
  deriving DecidableEq, Repr

/-- The errors of R220 with the info each records. -/
inductive ErrorRecord where
  | configError (reason : ConfigReason) (r1 r2 : Nat)
  | storageError (stage : Stage) (slot : Slot)
  | malformedCommand (what : Malformed)
  /-- Never raised by the block (R225). -/
  | transportUnavailable
  | counterExhausted (slot : Slot) (c : Nat)
  | phaseError (op : Byte) (phase : Phase)
  | unknownOperation (op : Byte)
  deriving DecidableEq, Repr

/-- What an operation returns (R11): `OK(v)` with v a frame, a cell, a code or nothing, or `ERR(E, info)`. -/
inductive Result where
  | frame (g : Frame)
  | cell (c : Cell)
  | code (c : Nat)
  | done
  | error (e : ErrorRecord)
  deriving DecidableEq, Repr

/-! ## Events -/

/-- What the outside brings to the block, one event a move (log 1). -/
inductive Event where
  /-- The host invokes an operation, which runs to its end in one move (R36). -/
  | operation (req : Request)
  /-- The same, with its burst run one segment a move (R176). -/
  | stepwise (req : Request)
  /-- One segment of a running burst passes; nothing happens when none runs. -/
  | tick
  /-- The control context runs the boot sequence (R251). -/
  | boot
  /-- Power-up or process start, with the configuration supplied for it (R250, R37). -/
  | restart (cfg : Configuration)
  /-- An operation is invoked and a restart falls before its store call number `n` (0 the first) takes effect (R257). -/
  | restartInOperation (req : Request) (n : Nat) (cfg : Configuration)
  /-- The boot sequence runs and a restart falls before its store call number `n` takes effect (R56, R250). -/
  | restartInBoot (n : Nat) (cfg : Configuration)
  deriving DecidableEq, Repr

/-! ## State -/

/-- The state of the block. The first group is the spec's tuple `(CONFIG, PHASE, STORE, LINE, TX, TRACE, ERRLOG)` (R20)
with the writes the backend holds staged (R34) and the parameter `CODE_WIDTH` (R6). The second group is the model's own:
outputs, inputs and draws (log 1, log 3, log 11, log 12). -/
structure State where
  /-- `CODE_WIDTH`, R6. Log 4. -/
  codeWidth   : Nat
  /-- `CONFIG`, R21. -/
  config      : Configuration
  /-- `PHASE`, R23. -/
  phase       : Phase
  /-- `STORE`, R24: the committed cells. -/
  store       : Memory
  /-- Writes staged and not committed, oldest first (R34, R54). -/
  staged      : List (Slot × Nat)
  /-- `LINE`, R26. -/
  line        : Level
  /-- `TX`, R27. -/
  tx          : Tx
  /-- `TRACE`, R28. -/
  trace       : List Segment
  /-- `ERRLOG`, R29. -/
  errlog      : List ErrorRecord
  /-- What the last operation returned to the host (R11). -/
  result      : Option Result
  /-- What the running operation returns when its burst ends (R176, R180). -/
  burstResult : Option Result
  /-- The events to come, next first. -/
  inbox       : List Event
  /-- The answers the backend gives next: true is a failure (R53, I3). -/
  draws       : List Bool
  /-- How many backend calls have been made; the counter of the free value `Config.backendFails`. -/
  drawCount   : Nat
  deriving DecidableEq, Repr

/-- Why the machine stops with a fault. No instruction raises one. -/
inductive Fault where
  /-- Raised by the segment step of `TX` (R176) when `TX = BUSY(G, k, j)` and the k-th transmission has no segment j, a
  state R27 does not give the block and no run reaches. Safe. -/
  | txPositionOutsideBurst
  deriving DecidableEq, Repr

/-- Why a request has no meaning. -/
inductive Refusal where
  /-- An arm of `exec` without a meaning yet. Safe. -/
  | notModelled (mnemonic : String)
  /-- Raised when a request's frame carries one of the twelve reserved command nibbles: "a reserved nibble cannot be
  written down (refused by construction)" (R83, I6). Safe. -/
  | reservedCommandNibble (n : Nibble)
  /-- Raised when a request's frame is not 7 bytes (R80) or its byte 0 is not 0xA7 (R81). Safe. -/
  | notAFrame
  /-- Raised when a default does not fit `CODE_WIDTH` bits, an operand outside its type (R141, R148). Safe. Log 20. -/
  | operandOutsideType
  deriving DecidableEq, Repr

/-- The block right after a restart (R37), at the very first power-up: `PHASE = STARTUP`, `LINE = LOW`, `TX = IDLE`,
`TRACE` and `ERRLOG` empty, nothing staged. The spec gives `CONFIG` no reset value (log 5) and leaves `STORE0` a parameter
(log 6); `CODE_WIDTH` is the spec's default (R6). -/
def State.reset : State :=
  { codeWidth := 16
    config := { profiles := [], resetReq := false }
    phase := .startup
    store := []
    staged := []
    line := .low
    tx := .idle
    trace := []
    errlog := []
    result := none
    burstResult := none
    inbox := []
    draws := []
    drawCount := 0 }

end Sys2Proof.Machine
end

