-- ==== Sys2Proof/Machine/Flags.lean ====
section
/-! DEFINITION. The conditions the operations test. The block has no flags and no condition codes (spec/10_state.md R31,
spec/00_scope.md R12), so no operation computes one. In their place stand the admission table of the phases
(spec/60_exceptions.md R235) and the configuration check (spec/70_reset_and_hazards.md R252). -/

namespace Sys2Proof.Machine

/-- The admission table of R235, by selector, for the six operations. -/
def admits (op : Byte) (phase : Phase) (resetReq : Bool) : Bool :=
  if op = opBuildFrame then true
  else if op = opCurrentCode then true
  else if op = opResetAll then decide (phase = .startup) && resetReq
  else decide (phase = .run)

/-- The index, counted from `i`, of the first element that `p` holds of. -/
def firstIndex {α : Type} (p : α → Bool) : List α → Nat → Option Nat
  | [], _ => none
  | x :: xs, i => if p x then some i else firstIndex p xs (i + 1)

/-- The lowest pair of indices `r1 < r2`, counted from `i`, whose elements are `same` (R252): the lowest r1, and for it
the lowest r2. Log 19. -/
def firstPair {α : Type} (same : α → α → Bool) : List α → Nat → Option (Nat × Nat)
  | [], _ => none
  | x :: xs, i =>
    match firstIndex (same x) xs (i + 1) with
    | some j => some (i, j)
    | none => firstPair same xs (i + 1)

/-- One check over pairs, as R252 reports it. -/
def pairCheck (reason : ConfigReason) (same : Profile → Profile → Bool) (ps : List Profile) :
    Option (ConfigReason × Nat × Nat) :=
  (firstPair same ps 0).map fun r => (reason, r.1, r.2)

/-- One check over single profiles, as R252 reports it: "the lowest single index r1 (with r2 = r1)". -/
def singleCheck (reason : ConfigReason) (bad : Profile → Bool) (ps : List Profile) :
    Option (ConfigReason × Nat × Nat) :=
  (firstIndex bad ps 0).map fun r => (reason, r, r)

/-- `CONFIG_CHECK`, R252: the first check that fails, in the table's order; none where all pass. -/
def configCheck (cw : Nat) (cfg : Configuration) : Option (ConfigReason × Nat × Nat) :=
  (pairCheck .dupId (fun p q => decide (p.id = q.id)) cfg.profiles).or
  ((pairCheck .dupKey (fun p q => decide (p.topicKey = q.topicKey)) cfg.profiles).or
  ((pairCheck .dupSlot (fun p q => decide (p.slot = q.slot)) cfg.profiles).or
  ((singleCheck .idRange (fun p => decide (2 ^ 24 ≤ p.id)) cfg.profiles).or
   (singleCheck .defaultRange (fun p => decide (2 ^ cw ≤ p.defaultCode)) cfg.profiles))))

end Sys2Proof.Machine
end

