-- ==== Sys2Proof/Machine/Ops.lean ====
section
/-! DEFINITION. The named operations over the state: the store and its three primitives (spec/20_memory.md R53 to R56),
raising an error (spec/60_exceptions.md R231), returning a result (R11), the phase test (R234), driving the line
(spec/00_scope.md R10) and a restart (spec/70_reset_and_hazards.md R250). -/

namespace Sys2Proof.Machine

/-! ## The store as a list in canonical form -/

/-- `STORE[s]`: a slot not listed is `ABSENT`. -/
def Memory.read (m : Memory) (s : Slot) : Cell :=
  match m with
  | [] => .absent
  | (t, v) :: rest => if s = t then .value v else Memory.read rest s

/-- `STORE[s] <- VALUE(v)`, keeping the slots strictly rising. A write changes only its own slot (R61). -/
def Memory.write (m : Memory) (s : Slot) (v : Nat) : Memory :=
  match m with
  | [] => [(s, v)]
  | (t, w) :: rest =>
    if s < t then (s, v) :: (t, w) :: rest
    else if s = t then (s, v) :: rest
    else (t, w) :: Memory.write rest s v

/-- The canonical form: slots strictly rising. No entry can equal what an unlisted slot reads as, since an entry holds a
value and an unlisted slot is `ABSENT`. -/
def Memory.wf (m : Memory) : Bool :=
  match m with
  | [] => true
  | [_] => true
  | (s, _) :: (t, w) :: rest => decide (s < t) && Memory.wf ((t, w) :: rest)

/-- Every stored value fits a cell: `0 <= v < 2^CODE_WIDTH` (R24). -/
def Memory.fits (m : Memory) (cw : Nat) : Bool := m.all fun sv => decide (sv.2 < 2 ^ cw)

/-- Several writes, in order. -/
def Memory.writeAll (m : Memory) (ws : List (Slot × Nat)) : Memory :=
  ws.foldl (fun acc sv => acc.write sv.1 sv.2) m

/-! ## Results of an operation's statements -/

/-- How a statement ends: it goes on with a value, or it raises an error (R11). -/
inductive Res (α : Type) where
  | ok (a : α) (s : State)
  | err (e : ErrorRecord) (s : State)

/-- The next statement runs only if this one raised nothing: "No statement after it runs" (R231). -/
def Res.andThen {α β : Type} (r : Res α) (f : α → State → Res β) : Res β :=
  match r with
  | .ok a s => f a s
  | .err e s => .err e s

/-! ## Raising an error, returning -/

/-- The numeric codes of R220 (D16). -/
def ErrorRecord.code : ErrorRecord → Nat
  | .configError _ _ _ => 1
  | .storageError _ _ => 2
  | .malformedCommand _ => 3
  | .transportUnavailable => 4
  | .counterExhausted _ _ => 5
  | .phaseError _ _ => 6
  | .unknownOperation _ => 7

/-- The one way an error is taken (R231): a staged and uncommitted write is discarded, one record is appended to
`ERRLOG`, and the operation returns `ERR(E, info)`. Nothing else is saved and there is no vector and no mode change; the
phase changes of R236 are made by whoever raises. There is no return from an error (R232): the next operation starts from
the state this leaves. -/
def State.raise (e : ErrorRecord) (s : State) : State :=
  { s with staged := [], errlog := s.errlog ++ [e], result := some (.error e) }

/-- `return v` ends an operation with `OK(v)` (R11). -/
def State.returns (v : Result) (s : State) : State := { s with result := some v }

/-- An operation's end, by `return` or by `raise`. -/
def Res.finish (r : Res Result) : State :=
  match r with
  | .ok v s => s.returns v
  | .err e s => s.raise e

/-- An operation's end as an outcome of the machine: both ends are a next state (R232). -/
def complete (r : Res Result) : Host.Outcome State Fault Refusal := .next r.finish

/-! ## The phase test -/

/-- Each operation tests its phase first, before any other effect (R234); in a phase that is not admitted it raises
`PhaseError(OP, PHASE)` (R227). -/
def ifAdmitted {α : Type} (op : Byte) (s : State) (body : State → Res α) : Res α :=
  if admits op s.phase s.config.resetReq then body s else .err (.phaseError op s.phase) s

/-! ## The persistence backend -/

/-- The draw of the n-th backend call from here: does it fail? Listed draws first, then the free value (R53, I3). -/
def State.drawAt (s : State) (n : Nat) : Bool := s.draws.getD n (Config.backendFails (s.drawCount + n))

/-- The state after `n` backend calls have drawn. -/
def State.afterDraws (s : State) (n : Nat) : State :=
  { s with draws := s.draws.drop n, drawCount := s.drawCount + n }

/-- One more write is staged (R54). -/
def State.stageWrite (slot : Slot) (v : Nat) (s : State) : State := { s with staged := s.staged ++ [(slot, v)] }

/-- What was staged is discarded (R56). -/
def State.discardStaged (s : State) : State := { s with staged := [] }

/-- The committed cells become `m` and nothing is staged (R55). -/
def State.commitTo (m : Memory) (s : State) : State := { s with store := m, staged := [] }

/-- `MemRead(s, CODE_WIDTH)`, R53: it fails by a draw, else answers the committed cell. No side effect. -/
def memRead (slot : Slot) (s : State) : Res Cell :=
  if s.drawAt 0 then .err (.storageError .read slot) (s.afterDraws 1)
  else .ok (s.store.read slot) (s.afterDraws 1)

/-- `MemWrite(s, CODE_WIDTH, v)`, R54: stages the value. A failure leaves every cell and discards what was staged
(R56). -/
def memWrite (slot : Slot) (v : Nat) (s : State) : Res Unit :=
  if s.drawAt 0 then .err (.storageError .write slot) (s.afterDraws 1).discardStaged
  else .ok () ((s.afterDraws 1).stageWrite slot v)

/-- `MemCommit()`, R55: every staged write becomes durable. A failure leaves every cell and discards what was staged
(R56). `slot` is the slot the operation was writing, for the error's info. -/
def memCommit (slot : Slot) (s : State) : Res Unit :=
  if s.drawAt 0 then .err (.storageError .commit slot) (s.afterDraws 1).discardStaged
  else .ok () ((s.afterDraws 1).commitTo (s.store.writeAll s.staged))

/-- Every `MemWrite` of the block is followed at once by `MemCommit` (R55, C6). -/
def writeDurably (slot : Slot) (v : Nat) (s : State) : Res Unit :=
  (memWrite slot v s).andThen fun _ s => memCommit slot s

/-! ## The output line -/

/-- `Emit(level, d)`, R10: drives the line and appends the segment to `TRACE`. It cannot fail (R172). -/
def emit (seg : Segment) (s : State) : State :=
  { s with line := seg.level, trace := s.trace ++ [seg] }

/-- Several `Emit`s, in order. -/
def emitAll (segs : List Segment) (s : State) : State := segs.foldl (fun s seg => emit seg s) s

/-! ## Restart -/

/-- A restart (R250, R37): volatile state takes its reset value, staged writes are lost, `STORE` keeps its committed
contents, and `CONFIG` is supplied anew. The host's events and the backend's draws are the outside's own and go on. -/
def restart (cfg : Configuration) (s : State) : State :=
  { s with
    config := cfg
    phase := .startup
    staged := []
    line := .low
    tx := .idle
    trace := []
    errlog := []
    result := none
    burstResult := none }

end Sys2Proof.Machine
end

