-- ==== Sys2Proof/Machine/RollingCode.lean ====
section
/-! DEFINITION. The rolling-code store's operations (spec/41_rolling_code_store.md). Each
uses the slot its operand names as given (R63); none checks that a profile of `CONFIG` names it, though R51 says that the
block reaches only those (R151, R233). DEDUCED, log 32. -/

namespace Sys2Proof.Machine

/-! ## CURRENT_CODE -/

/-- `CURRENT_CODE(s)`, R140: a read without mutation, admitted in every phase. Any slot: log 32. -/
def execCurrentCode (slot : Slot) (s : State) : Host.Outcome State Fault Refusal :=
  complete (ifAdmitted opCurrentCode s fun s => (memRead slot s).andThen fun cell s => .ok (.cell cell) s)

/-! ## TAKE_AND_ADVANCE -/

/-- The code an operation takes from the cell it read: an absent slot is first given the default, committed on its own
(R142, D11). -/
def takenCode (slot : Slot) (dflt : Nat) (cell : Cell) (s : State) : Res Nat :=
  match cell with
  | .absent => (writeDurably slot dflt s).andThen fun _ s => .ok dflt s
  | .value v => .ok v s

/-- The advance: exhaustion check (R143), then `c + 1` committed before the code is returned (R141, R65). -/
def advance (slot : Slot) (c : Nat) (s : State) : Res Nat :=
  if c = 2 ^ s.codeWidth - 1 then .err (.counterExhausted slot c) s
  else (writeDurably slot (c + 1) s).andThen fun _ s => .ok c s

/-- The store part of `TAKE_AND_ADVANCE`, after its phase test (R141). -/
def takeAndAdvance (slot : Slot) (dflt : Nat) (s : State) : Res Nat :=
  (memRead slot s).andThen fun cell s =>
    (takenCode slot dflt cell s).andThen fun c s => advance slot c s

/-- `TAKE_AND_ADVANCE(s, D)`, R141. Any slot: log 32. -/
def execTakeAndAdvance (slot : Slot) (dflt : Nat) (s : State) : Host.Outcome State Fault Refusal :=
  complete (ifAdmitted opTakeAndAdvance s fun s => (takeAndAdvance slot dflt s).andThen fun c s => .ok (.code c) s)

/-! ## RESET_ALL -/

/-- The writes of `RESET_ALL`: one slot at a time, each committed before the next, in list order (R148, R149). -/
def resetEach (defaults : List (Slot × Nat)) (s : State) : Res Unit :=
  match defaults with
  | [] => .ok () s
  | (slot, d) :: rest => (writeDurably slot d s).andThen fun _ s => resetEach rest s

/-- `RESET_ALL`'s end outside the boot sequence. A `StorageError` from it in STARTUP halts the block (R236); it can reach
its writes in STARTUP only. DEDUCED, log 17. -/
def finishReset (r : Res Unit) : State :=
  match r with
  | .ok _ s => s.returns .done
  | .err e s => { s.raise e with phase := .halted }

/-- `RESET_ALL(defaultsBySlot)`, R148. Any slots: log 32. -/
def execResetAll (defaults : List (Slot × Nat)) (s : State) : Host.Outcome State Fault Refusal :=
  .next (if admits opResetAll s.phase s.config.resetReq then finishReset (resetEach defaults s)
    else s.raise (.phaseError opResetAll s.phase))

end Sys2Proof.Machine
end

