-- ==== Sys2Proof/Machine/Boot.lean ====
section
/-! DEFINITION. The boot sequence (spec/70_reset_and_hazards.md R251). -/

namespace Sys2Proof.Machine

/-- The list the boot sequence gives `RESET_ALL`: every profile's slot and default, in configuration order (R148). -/
def profileDefaults (cfg : Configuration) : List (Slot × Nat) :=
  cfg.profiles.map fun p => (p.slot, p.defaultCode)

/-- An error at boot is raised and halts the block (R221, R236, D14). -/
def haltWith (e : ErrorRecord) (s : State) : State := { s.raise e with phase := .halted }

/-- The end of the boot sequence's reset: RUN, or HALTED on a `StorageError` (R251). -/
def finishBoot (r : Res Unit) : State :=
  match r with
  | .ok _ s => { s with phase := .run }
  | .err e s => haltWith e s

/-- The boot sequence with `CONFIG` loaded and `PHASE = STARTUP`: check, optional reset, RUN (R251). The check comes
before the reset (D32). -/
def bootSequence (s : State) : State :=
  match configCheck s.codeWidth s.config with
  | some (reason, r1, r2) => haltWith (.configError reason r1 r2) s
  | none => if s.config.resetReq then finishBoot (resetEach (profileDefaults s.config) s) else { s with phase := .run }

/-- The boot sequence "runs once after every restart, in PHASE = STARTUP" (R251); in another phase it has run already and
nothing happens. Log 18. -/
def boot (s : State) : State := if s.phase = .startup then bootSequence s else s

end Sys2Proof.Machine
end

