-- ==== Sys2Proof/Machine/Transmitter.lean ====
section
/-! DEFINITION. The RF transmitter (spec/42_rf_transmitter.md): segment groups, one physical transmission, the burst, and
the segment-level step of `TX`. Durations are the constants of spec/30_encoding.md R87, in µs. -/

namespace Sys2Proof.Machine

/-! ## Segment groups (R171) -/

def wakeSegments : List Segment := [⟨.high, 9415⟩, ⟨.low, 89565⟩]
def hwSyncSegments : List Segment := [⟨.high, 2560⟩, ⟨.low, 2560⟩]
def swSyncSegments : List Segment := [⟨.high, 4550⟩, ⟨.low, 640⟩]
def silenceSegments : List Segment := [⟨.low, 30415⟩]

/-- One data bit: two halves of 640 µs at opposite levels (R88). -/
def bitSegments (b : Bool) : List Segment :=
  if b then [⟨.low, 640⟩, ⟨.high, 640⟩] else [⟨.high, 640⟩, ⟨.low, 640⟩]

/-- A group sent `n` times. -/
def repeated (n : Nat) (group : List Segment) : List Segment := (List.replicate n group).flatten

/-- The 56 data bits, most significant first (R172 step 4, R59). -/
def dataSegments (g : Frame) : List Segment := (List.range 56).flatMap fun n => bitSegments (airBit g n)

/-- The wake pulse, on the first frame of a burst only (R172 step 1). -/
def wakePart (first : Bool) : List Segment := if first then wakeSegments else []

/-- `SYNC_FIRST` = 2 and `SYNC_REPEAT` = 7 (R87). -/
def syncCount (first : Bool) : Nat := if first then 2 else 7

/-- The segments `TX_FRAME(G, first)` emits, steps 1 to 5 in order (R172). -/
def frameSegments (g : Frame) (first : Bool) : List Segment :=
  wakePart first ++ repeated (syncCount first) hwSyncSegments ++ swSyncSegments ++ dataSegments g ++ silenceSegments

/-- `SEGS(G, k)`: the list of physical transmission k (R176). -/
def segmentsAt (g : Frame) (k : Fin 3) : List Segment := frameSegments g (decide (k = 0))

/-- A whole burst, three physical transmissions of one frame (R174). -/
def burst (g : Frame) : List Segment := frameSegments g true ++ frameSegments g false ++ frameSegments g false

/-! ## TRANSMIT_BURST -/

/-- `TX_FRAME(G, first)`, R172. -/
def txFrame (g : Frame) (first : Bool) (s : State) : State := emitAll (frameSegments g first) s

/-- The emitting part of `TRANSMIT_BURST` (R174): once it begins no error can occur (R178). -/
def transmit (g : Frame) (s : State) : State :=
  let s := { s with tx := .busy g 0 0 }
  let s := txFrame g true s
  let s := txFrame g false s
  let s := txFrame g false s
  { s with tx := .idle }

/-- An operation that ends with a burst, given what came before its first `Emit`: the frame to send and the result to
return. An error before it emits nothing (R202). -/
def finishBurst (r : Res (Frame × Result)) : State :=
  match r with
  | .ok (g, v) s => (transmit g s).returns v
  | .err e s => s.raise e

/-- What `TRANSMIT_BURST` does before its first `Emit`: the phase test. `G` is not checked (R183). -/
def prepareTransmit (g : Frame) (s : State) : Res (Frame × Result) :=
  ifAdmitted opTransmitBurst s fun s => .ok (g, .done) s

/-- `TRANSMIT_BURST(G)`, R174, as one move (R36). -/
def execTransmitBurst (g : Frame) (s : State) : Host.Outcome State Fault Refusal :=
  .next (finishBurst (prepareTransmit g s))

/-! ## The segment-level step (R176) -/

/-- The start of a burst in the segment-level reading: `TX <- BUSY(G, 0, 0)`, and the result waits for the burst's end. -/
def startBurst (r : Res (Frame × Result)) : State :=
  match r with
  | .ok (g, v) s => { s with tx := .busy g 0 0, burstResult := some v }
  | .err e s => s.raise e

/-- The end of a burst: `TX <- IDLE`, and the operation returns its result (R180). -/
def endBurst (s : State) : State :=
  { s with tx := .idle, result := s.burstResult, burstResult := none }

/-- Where `TX` goes after segment j of transmission k (R176). -/
def advanceTx (g : Frame) (k : Fin 3) (j : Nat) (s : State) : State :=
  if j + 1 < (segmentsAt g k).length then { s with tx := .busy g k (j + 1) }
  else if k = 0 then { s with tx := .busy g 1 0 }
  else if k = 1 then { s with tx := .busy g 2 0 }
  else endBurst s

/-- One step of `TX = BUSY(G, k, j)`: one `Emit`, then the next position. -/
def segmentStep (g : Frame) (k : Fin 3) (j : Nat) (s : State) : Host.Outcome State Fault Refusal :=
  match (segmentsAt g k)[j]? with
  | some seg => .next (advanceTx g k j (emit seg s))
  | none => .fault .txPositionOutsideBurst

end Sys2Proof.Machine
end

