-- ==== Sys2Proof/Machine/CommandPath.lean ====
section
/-! DEFINITION. The command path (spec/43_command_path.md): `SEND_COMMAND`, the payload letters, a malformed payload, and
an operation with a reserved selector (spec/60_exceptions.md R228). -/

namespace Sys2Proof.Machine

/-- The part of `SEND_COMMAND` for a known remote that precedes its first `Emit`: the code is taken and its successor
committed, then the frame is built (R200, R201). -/
def prepareFor (p : Profile) (cmd : Command) (s : State) : Res (Frame × Result) :=
  (takeAndAdvance p.slot p.defaultCode s).andThen fun c s =>
    .ok (buildFrame (BitVec.ofNat 24 p.id) cmd (frameCode c), .code c) s

/-- What `SEND_COMMAND(r, cmd)` does before its first `Emit`: phase, remote, store steps, in that order (R200, R230). -/
def prepareSend (r : Nat) (cmd : Command) (s : State) : Res (Frame × Result) :=
  ifAdmitted opSendCommand s fun s =>
    match s.config.profiles[r]? with
    | some p => prepareFor p cmd s
    | none => .err (.malformedCommand (.remote r)) s

/-- `SEND_COMMAND(r, cmd)`, R200, as one move (R36). -/
def execSendCommand (r : Nat) (cmd : Command) (s : State) : Host.Outcome State Fault Refusal :=
  .next (finishBurst (prepareSend r cmd s))

/-- `SEND r, 'u'` is `SEND_COMMAND(r, UP)`, R205. -/
def execSendU (r : Nat) (s : State) : Host.Outcome State Fault Refusal := execSendCommand r .up s

/-- `SEND r, 's'` is `SEND_COMMAND(r, STOP)`, R205. -/
def execSendS (r : Nat) (s : State) : Host.Outcome State Fault Refusal := execSendCommand r .stop s

/-- `SEND r, 'd'` is `SEND_COMMAND(r, DOWN)`, R205. -/
def execSendD (r : Nat) (s : State) : Host.Outcome State Fault Refusal := execSendCommand r .down s

/-- `SEND r, 'p'` is `SEND_COMMAND(r, PROG)`, R205. -/
def execSendP (r : Nat) (s : State) : Host.Outcome State Fault Refusal := execSendCommand r .prog s

/-- A malformed payload raises `MalformedCommand(PAYLOAD, payload)`, before any check of `SEND_COMMAND` (R205, R230). -/
def malformedPayload (bytes : List Byte) (s : State) : Host.Outcome State Fault Refusal :=
  .next (s.raise (.malformedCommand (.payload bytes)))

/-- An operation with a reserved selector raises `UnknownOperation(OP)` in every phase (R90, R228). -/
def execReservedSelector (op : Byte) (s : State) : Host.Outcome State Fault Refusal :=
  .next (s.raise (.unknownOperation op))

/-- For an operation that ends with a burst, what it does before the first `Emit`; none for every other. -/
def burstWork (i : Instr) (s : State) : Option (Res (Frame × Result)) :=
  match i with
  | .buildFrame _ _ _ => none
  | .currentCode _ => none
  | .takeAndAdvance _ _ => none
  | .resetAll _ => none
  | .transmitBurst g => some (prepareTransmit g s)
  | .sendCommand r cmd => some (prepareSend r cmd s)
  | .reservedSelector _ => none
  | .up _ _ => none
  | .stop _ _ => none
  | .down _ _ => none
  | .prog _ _ => none
  | .sendU r => some (prepareSend r .up s)
  | .sendS r => some (prepareSend r .stop s)
  | .sendD r => some (prepareSend r .down s)
  | .sendP r => some (prepareSend r .prog s)

end Sys2Proof.Machine
end

