-- ==== Sys2Proof/Machine/FrameOps.lean ====
section
/-! DEFINITION. The codec's operation and its four command rows (spec/40_frame_codec.md R117 to R121). They are admitted
in every phase and change nothing but the result (R117). -/

namespace Sys2Proof.Machine

/-- `BUILD_FRAME(rid, cmd, code)`, R117. "All inputs are value-range-constrained by the type", so it cannot fail. -/
def execBuildFrame (rid : RemoteId) (cmd : Command) (code : CodeField) (s : State) :
    Host.Outcome State Fault Refusal :=
  complete (ifAdmitted opBuildFrame s fun s => .ok (.frame (buildFrame rid cmd code)) s)

/-- Command UP: `BUILD_FRAME(rid, UP, code)`, R118. -/
def execUp (rid : RemoteId) (code : CodeField) (s : State) : Host.Outcome State Fault Refusal :=
  execBuildFrame rid .up code s

/-- Command STOP: `BUILD_FRAME(rid, STOP, code)`, R119. -/
def execStop (rid : RemoteId) (code : CodeField) (s : State) : Host.Outcome State Fault Refusal :=
  execBuildFrame rid .stop code s

/-- Command DOWN: `BUILD_FRAME(rid, DOWN, code)`, R120. -/
def execDown (rid : RemoteId) (code : CodeField) (s : State) : Host.Outcome State Fault Refusal :=
  execBuildFrame rid .down code s

/-- Command PROG: `BUILD_FRAME(rid, PROG, code)`, R121. -/
def execProg (rid : RemoteId) (code : CodeField) (s : State) : Host.Outcome State Fault Refusal :=
  execBuildFrame rid .prog code s

end Sys2Proof.Machine
end

