-- ==== Sys2Proof/Machine/Dispatch.lean ====
section
/-! DEFINITION. One arm per row of spec/opcode_table.json. -/

namespace Sys2Proof.Machine

def exec (i : Instr) (s : State) : Host.Outcome State Fault Refusal :=
  match i with
  | .buildFrame rid cmd code => Sys2Proof.Machine.execBuildFrame rid cmd code s
  | .currentCode slot => Sys2Proof.Machine.execCurrentCode slot s
  | .takeAndAdvance slot dflt => Sys2Proof.Machine.execTakeAndAdvance slot dflt s
  | .resetAll defaults => Sys2Proof.Machine.execResetAll defaults s
  | .transmitBurst g => Sys2Proof.Machine.execTransmitBurst g s
  | .sendCommand r cmd => Sys2Proof.Machine.execSendCommand r cmd s
  | .reservedSelector op => Sys2Proof.Machine.execReservedSelector op s
  | .up rid code => Sys2Proof.Machine.execUp rid code s
  | .stop rid code => Sys2Proof.Machine.execStop rid code s
  | .down rid code => Sys2Proof.Machine.execDown rid code s
  | .prog rid code => Sys2Proof.Machine.execProg rid code s
  | .sendU r => Sys2Proof.Machine.execSendU r s
  | .sendS r => Sys2Proof.Machine.execSendS r s
  | .sendD r => Sys2Proof.Machine.execSendD r s
  | .sendP r => Sys2Proof.Machine.execSendP r s

end Sys2Proof.Machine
end

