-- ==== Sys2Proof/Machine/Serve.lean ====
section
/-! DEFINITION. What each event does to the block: serving a request, running one segment at a time, a restart inside an
operation, and which move comes next (spec/10_state.md R36, spec/42_rf_transmitter.md R176 and R179,
spec/70_reset_and_hazards.md R250 and R257). Step.lean only calls these. -/

namespace Sys2Proof.Machine

/-- What the block does with a request that names no instruction. -/
def rejected (why : Reject) (s : State) : Host.Outcome State Fault Refusal :=
  match why with
  | .malformedPayload bytes => malformedPayload bytes s
  | .reservedCommandNibble n => .refused (.reservedCommandNibble n)
  | .notAFrame _ => .refused .notAFrame

/-- A request, decoded; `body` runs a well-formed instruction. An operand outside its type cannot be written down by the
spec's typed operands and is refused (log 20). -/
def serveWith (body : Instr → State → Host.Outcome State Fault Refusal) (req : Request) (s : State) :
    Host.Outcome State Fault Refusal :=
  match decode req with
  | .error why => rejected why s
  | .ok i => if i.wellFormed s.codeWidth then body i s else .refused .operandOutsideType

/-- A request run to its end in one move (R36). -/
def serve (req : Request) (s : State) : Host.Outcome State Fault Refusal := serveWith exec req s

/-- An instruction whose burst, if it has one, is left to the segment step (R176). -/
def execStepwise (i : Instr) (s : State) : Host.Outcome State Fault Refusal :=
  match burstWork i s with
  | some r => .next (startBurst r)
  | none => exec i s

/-- A request in the segment-level reading. -/
def serveStepwise (req : Request) (s : State) : Host.Outcome State Fault Refusal := serveWith execStepwise req s

/-- The backend's draws for work that a restart cuts before store call number `n` takes effect: the calls before it
succeed and that one has no effect. A call without effect and a failed call leave the same store (R56), and everything
else is lost with the restart (R250). DEDUCED, log 16. -/
def cutDraws (n : Nat) : List Bool := List.replicate n false ++ [true]

/-- After the cut work, the restart; the backend's own draws go on where they were. -/
def afterCut (cfg : Configuration) (before : State) (cut : Host.Outcome State Fault Refusal) :
    Host.Outcome State Fault Refusal :=
  match cut with
  | .next s => .next (restart cfg { s with draws := before.draws, drawCount := before.drawCount })
  | .fault f => .fault f
  | .refused r => .refused r

/-- One event, with no burst running. -/
def handleEvent (e : Event) (s : State) : Host.Outcome State Fault Refusal :=
  match e with
  | .operation req => serve req s
  | .stepwise req => serveStepwise req s
  | .tick => .next s
  | .boot => .next (boot s)
  | .restart cfg => .next (restart cfg s)
  | .restartInOperation req n cfg => afterCut cfg s (serve req { s with draws := cutDraws n })
  | .restartInBoot n cfg => afterCut cfg s (.next (boot { s with draws := cutDraws n }))

/-- The move while no burst runs: the next event; with none, the boot sequence in STARTUP, else nothing (log 1, log 2). -/
def idleMove (s : State) : Host.Outcome State Fault Refusal :=
  match s.inbox with
  | [] => .next (boot s)
  | e :: rest => handleEvent e { s with inbox := rest }

/-- The move while `TX = BUSY(G, k, j)`: a restart cuts the burst (R178), else one segment passes and every other event
waits (R179). -/
def burstMove (g : Frame) (k : Fin 3) (j : Nat) (s : State) : Host.Outcome State Fault Refusal :=
  match s.inbox with
  | .restart cfg :: rest => .next (restart cfg { s with inbox := rest })
  | .tick :: rest => segmentStep g k j { s with inbox := rest }
  | _ => segmentStep g k j s

/-- The block's next move. -/
def move (s : State) : Host.Outcome State Fault Refusal :=
  match s.tx with
  | .idle => idleMove s
  | .busy g k j => burstMove g k j s

/-- The state in which the next move serves the request that carries one byte of the opcode table. -/
def placeRequest (b : Byte) (s : State) : State :=
  { s with tx := .idle, inbox := .operation (tableRequest b) :: s.inbox }

end Sys2Proof.Machine
end

