-- ==== Sys2Proof/Machine/Step.lean ====
section
/-! DEFINITION. The step of the machine and the placing of one table byte where it is served next. -/

namespace Sys2Proof.Machine

/-- One move of the block. -/
def step (s : State) : Host.Outcome State Fault Refusal := move s

/-- The block fetches no instructions (R68); it serves the host's next request. This puts the request of a table row's
byte, its operands zero, first in the inbox. A running burst would make it wait (R179), so `TX` is idle. Every row of the
table is one byte. -/
def State.withFetchWord (s : State) (_nbits w : Nat) : State := placeRequest (BitVec.ofNat 8 w) s

end Sys2Proof.Machine
end

