-- ==== Sys2Proof/Machine/Waveform.lean ====
section
/-! DEFINITION. `TRACE` against a measured waveform: merging of equal neighbours (spec/42_rf_transmitter.md R182), the
tolerance of real durations (R177), and the start times of bursts (R184, spec/70_reset_and_hazards.md R260). Nothing here
is state, and no operation depends on it (R259). -/

namespace Sys2Proof.Machine

/-- The nominal duration of a list of segments, in µs. -/
def totalUs (segs : List Segment) : Nat := (segs.map Segment.duration).sum

/-- A segment put before a merged list. -/
def mergeInto (seg : Segment) (merged : List Segment) : List Segment :=
  match merged with
  | [] => [seg]
  | h :: t => if seg.level = h.level then ⟨h.level, seg.duration + h.duration⟩ :: t else seg :: h :: t

/-- Adjacent segments of one level merged into one interval, their durations added (R182). -/
def mergeAdjacent (segs : List Segment) : List Segment := segs.foldr mergeInto []

/-- The level at every nominal microsecond: what the line shows (R182). -/
def waveform (segs : List Segment) : List Level := segs.flatMap fun seg => List.replicate seg.duration seg.level

/-- A real waveform a nominal one allows: the same levels, each real duration within `JITTER_US` of its nominal value
(R177). -/
def withinJitter (nominal real : List Segment) : Prop :=
  List.Forall₂ (fun n r => n.level = r.level ∧
    n.duration ≤ r.duration + Config.jitterUs ∧ r.duration ≤ n.duration + Config.jitterUs) nominal real

/-- The segments of one burst (R175). -/
def segmentsPerBurst : Nat := 379

/-- When burst number n of a trace starts, in nominal µs since reset: after everything that `TRACE` holds before it, and
after the times `gap 0` to `gap n` that pass with the line LOW before each burst, draws of at least 0 µs (R184, R260). No
move depends on the gaps. Log 22. -/
def burstStartUs (gap : Nat → Nat) (trace : List Segment) (n : Nat) : Nat :=
  ((List.range (n + 1)).map gap).sum + totalUs (trace.take (segmentsPerBurst * n))

end Sys2Proof.Machine
end

