-- ==== Sys2Proof/Safety.lean ====
section
/-! DEFINITION. What counts as a good state and a good run of the block, in the words the statements use. -/

namespace Sys2Proof.Machine

/-- The next `n` backend calls succeed. -/
abbrev State.callsSucceed (s : State) (n : Nat) : Prop := ∀ i < n, s.drawAt i = false

/-- The line's level after a trace: that of its last segment, `LOW` before the first (R26, R37). -/
def levelAfter (trace : List Segment) : Level :=
  match trace.getLast? with
  | some seg => seg.level
  | none => .low

/-- The part of a burst of `g` emitted when `TX = BUSY(g, k, j)`: the transmissions before k and j segments of k. -/
def emittedBefore (g : Frame) (k : Fin 3) (j : Nat) : List Segment :=
  (if k = 0 then [] else if k = 1 then segmentsAt g 0 else segmentsAt g 0 ++ segmentsAt g 1) ++ (segmentsAt g k).take j

/-- `TRACE` is whole bursts, and behind them what has been emitted of the running one (R174, R178). -/
def traceShape (tx : Tx) (trace : List Segment) : Prop :=
  ∃ sent : List Frame,
    match tx with
    | .idle => trace = sent.flatMap burst
    | .busy g k j => trace = sent.flatMap burst ++ emittedBefore g k j

/-- A burst that is on the line carries the frame of a code whose successor is committed, for a remote of the
configuration: durability before emission (R65). A burst of `TRANSMIT_BURST` returns no code and carries no such duty of
the block (R124). -/
def committedBeforeEmission (s : State) : Prop :=
  ∀ g k j c, s.tx = .busy g k j → s.burstResult = some (.code c) →
    ∃ p ∈ s.config.profiles, ∃ cmd, g = buildFrame (BitVec.ofNat 24 p.id) cmd (frameCode c) ∧
      s.store.read p.slot = .value (c + 1)

/-- The invariant of the block between moves. -/
structure BlockInvariant (s : State) : Prop where
  /-- `CODE_WIDTH >= 16` (R6). -/
  width : 16 ≤ s.codeWidth
  /-- `STORE` is in canonical form. -/
  canonical : s.store.wf = true
  /-- Every cell holds a value below `2^CODE_WIDTH` (R24). -/
  cellsFit : s.store.fits s.codeWidth = true
  /-- No write is left staged between moves (R54). -/
  nothingStaged : s.staged = []
  /-- `LINE` is the level of the last segment emitted since reset, `LOW` before the first (R10, R37). -/
  lineFollowsTrace : s.line = levelAfter s.trace
  /-- Between bursts the line is `LOW` (R184) and no result is pending. -/
  idleIsLow : s.tx = .idle → s.line = .low ∧ s.burstResult = none
  /-- `TX = BUSY(G, k, j)` names a segment of transmission k (R27), in RUN (R235), with a result pending. -/
  busyIsLegal : ∀ g k j, s.tx = .busy g k j →
    j < (segmentsAt g k).length ∧ s.phase = .run ∧ s.burstResult.isSome = true
  /-- `TRACE` is whole bursts and the emitted part of the running one (R178). -/
  wholeBursts : traceShape s.tx s.trace
  /-- Durability before emission (R65). -/
  durable : committedBeforeEmission s
  /-- A configuration that fails the check never reaches RUN (R21, R222). -/
  runIsConfigured : s.phase = .run → configCheck s.codeWidth s.config = none
  /-- Nothing is sent outside RUN (R222, R235). -/
  quietOutsideRun : s.phase ≠ .run → s.trace = []

/-- `n` moves, stopping at the first stop. -/
def moves : Nat → State → Host.Outcome State Fault Refusal
  | 0, s => .next s
  | n + 1, s =>
    match step s with
    | .next t => moves n t
    | .fault f => .fault f
    | .refused r => .refused r

/-- The states whose next move may run `RESET_ALL`'s writes: STARTUP with `RESET_REQ = 1` (R235). -/
def mayReset (s : State) : Bool := decide (s.phase = .startup) && s.config.resetReq

/-- `n` moves from `s` to `t`, none of them from a state that may reset a counter. -/
def RunWithoutReset : Nat → State → State → Prop
  | 0, s, t => s = t
  | n + 1, s, t => mayReset s = false ∧ ∃ m, step s = .next m ∧ RunWithoutReset n m t

/-- Operations invoked one after the other, stopping at the first stop. -/
def execAll (is : List Instr) (s : State) : Host.Outcome State Fault Refusal :=
  match is with
  | [] => .next s
  | i :: rest =>
    match exec i s with
    | .next t => execAll rest t
    | .fault f => .fault f
    | .refused r => .refused r

/-- The events that bring a restart. -/
def Event.isRestart : Event → Bool
  | .operation _ => false
  | .stepwise _ => false
  | .tick => false
  | .boot => false
  | .restart _ => true
  | .restartInOperation _ _ _ => true
  | .restartInBoot _ _ => true

/-- The events that wait while a burst runs (R179): all but passing time and a restart between two moves. -/
def Event.waitsForBurst : Event → Bool
  | .operation _ => true
  | .stepwise _ => true
  | .tick => false
  | .boot => true
  | .restart _ => false
  | .restartInOperation _ _ _ => true
  | .restartInBoot _ _ => true

end Sys2Proof.Machine
end

