-- ==== Sys2Proof/Certificates/Slice0/Obligations.lean ====
section
/-! DEFINITION. The statements for the provers. Each docstring names the rules of spec/ it formalises. A state is any
state, reached or not; where a write left staged would matter, `s.staged = []` is a premise, and
`EveryMoveKeepsTheBlockInvariant` states that it holds between moves. `s.callsSucceed n` says that the next n calls of
the persistence backend succeed and `s.drawAt i = true` that call i fails (R53). A docstring that names a decision D<n>
rests there on the spec's own choice (spec/92_eei_decisions.md, log 26), not on its source. -/

open Sys2Proof Sys2Proof.Machine

/-! ## Encoding -/

/-- R80, R82, R89, R91: no operand and no bit of an instruction is lost on the way to a request and back. -/
def Obligations.DecodeOfEncodeIsTheInstruction : Prop :=
  ∀ (cw : Nat) (i : Instr), i.wellFormed cw = true → decode (encode i) = .ok i

/-- Words written out from the spec decode to what they stand for: selectors of R89, the checksummed frames of
95_test_vectors.md V-C1 (UP code 0000, DOWN code 0BB9, STOP code 0005, PROG code 0010) and the letters of R91. The model's
choice, not the spec's: that the 7 bytes of a checksummed frame name a command row (log 9), and how a bare byte of the
opcode table is read, its operands zero (log 8); the three clauses of `decodeTableWord` rest on log 8, among them 0x20 as
the row UP, which as a selector R90 reserves. -/
def Obligations.SpecWordsDecodeToTheirInstruction : Prop :=
  decode (.select 0x01#8 { zeroOperands with rid := 0x184623#24, cmd := .down, code := 0x0BB9#16 })
      = .ok (.buildFrame 0x184623#24 .down 0x0BB9#16) ∧
  decode (.select 0x03#8 { zeroOperands with slot := 7, dflt := 0x0BB8 }) = .ok (.takeAndAdvance 7 0x0BB8) ∧
  decode (.select 0x75#8 zeroOperands) = .ok (.reservedSelector 0x75#8) ∧
  decode (.frame [0xA7#8, 0x25#8, 0x00#8, 0x00#8, 0x18#8, 0x46#8, 0x23#8]) = .ok (.up 0x184623#24 0x0000#16) ∧
  decode (.frame [0xA7#8, 0x4A#8, 0x0B#8, 0xB9#8, 0x18#8, 0x46#8, 0x23#8]) = .ok (.down 0x184623#24 0x0BB9#16) ∧
  decode (.frame [0xA7#8, 0x1E#8, 0x00#8, 0x05#8, 0x12#8, 0x34#8, 0x56#8]) = .ok (.stop 0x123456#24 0x0005#16) ∧
  decode (.frame [0xA7#8, 0x85#8, 0x00#8, 0x10#8, 0xAB#8, 0xCD#8, 0xEF#8]) = .ok (.prog 0xABCDEF#24 0x0010#16) ∧
  decode (.payload 3 [0x75#8]) = .ok (.sendU 3) ∧
  decode (.payload 3 [0x73#8]) = .ok (.sendS 3) ∧
  decode (.payload 3 [0x64#8]) = .ok (.sendD 3) ∧
  decode (.payload 3 [0x70#8]) = .ok (.sendP 3) ∧
  decodeTableWord 8 0x06 = some (.sendCommand 0 .up) ∧
  decodeTableWord 8 0x20 = some (.up 0#24 0#16) ∧
  decodeTableWord 8 0x07 = some (.reservedSelector 0x07#8)

/-- R90, R228, by D17 and D36: an operation with a reserved selector raises `UnknownOperation` in every phase and
changes nothing except `ERRLOG`; it returns `ERR` (R11) and, as every raise, discards a write left staged (R231). -/
def Obligations.ReservedSelectorRaisesUnknownOperation : Prop :=
  ∀ (op : Byte) (args : Operands) (s : State), (op = 0x00#8 ∨ 0x07#8 ≤ op) →
    decode (.select op args) = .ok (.reservedSelector op) ∧
    exec (.reservedSelector op) s
      = .next { s with staged := [], errlog := s.errlog ++ [.unknownOperation op],
                       result := some (.error (.unknownOperation op)) }

/-- R83, I6: a frame whose command nibble is one of the other twelve values is refused by name, and nothing is run. -/
def Obligations.ReservedCommandNibbleIsRefused : Prop :=
  ∀ (b1 b2 b3 b4 b5 b6 : Byte) (s : State) (rest : List Event),
    b1.extractLsb' 4 4 ∉ [0x2#4, 0x1#4, 0x4#4, 0x8#4] →
    s.tx = .idle → s.inbox = .operation (.frame [0xA7#8, b1, b2, b3, b4, b5, b6]) :: rest →
    step s = .refused (.reservedCommandNibble (b1.extractLsb' 4 4))

/-! ## The frame codec -/

/-- R112. -/
def Obligations.ChecksumIsTheXorOfAllFourteenNibbles : Prop :=
  ∀ p : Frame, checksum p =
    (p.b0.extractLsb' 4 4 ^^^ p.b0.extractLsb' 0 4) ^^^ (p.b1.extractLsb' 4 4 ^^^ p.b1.extractLsb' 0 4) ^^^
    (p.b2.extractLsb' 4 4 ^^^ p.b2.extractLsb' 0 4) ^^^ (p.b3.extractLsb' 4 4 ^^^ p.b3.extractLsb' 0 4) ^^^
    (p.b4.extractLsb' 4 4 ^^^ p.b4.extractLsb' 0 4) ^^^ (p.b5.extractLsb' 4 4 ^^^ p.b5.extractLsb' 0 4) ^^^
    (p.b6.extractLsb' 4 4 ^^^ p.b6.extractLsb' 0 4)

/-- R114, for a `P` whose checksum nibble is 0 (R111's operand): the nibble XOR of `S` is 0, and its checksum nibble
is the nibble XOR of `S` with that nibble cleared. -/
def Obligations.ChecksummedFrameHasNibbleXorZero : Prop :=
  ∀ p : Frame, lowNibble p.b1 = 0#4 →
    nibbleXor (insertChecksum p (checksum p)) = 0#4 ∧
    lowNibble (insertChecksum p (checksum p)).b1
      = nibbleXor { insertChecksum p (checksum p) with b1 := (insertChecksum p (checksum p)).b1 &&& 0xF0#8 }

/-- R116: byte i of `G` is the XOR of bytes 0 to i of `S`, and the two nibbles of `G[6]` agree for a checksummed `S`.
-/
def Obligations.ObfuscatedByteIsTheXorOfBytesUpToIt : Prop :=
  (∀ (f : Frame) (i : Nat), i < 7 →
    frameByte (obfuscate f) i = ((frameBytes f).take (i + 1)).foldl (fun (a b : Byte) => a ^^^ b) 0#8) ∧
  (∀ p : Frame, lowNibble p.b1 = 0#4 →
    highNibble (obfuscate (insertChecksum p (checksum p))).b6
      ^^^ lowNibble (obfuscate (insertChecksum p (checksum p))).b6 = 0#4)

/-- R122, C1: the inverse read from `G` restores every frame; the chain applied again does not, for the fixture. -/
def Obligations.DeobfuscateRestoresTheFrame : Prop :=
  (∀ f : Frame, deobfuscate (obfuscate f) = f) ∧ (∀ g : Frame, obfuscate (deobfuscate g) = g) ∧
  obfuscate ⟨0xA7#8, 0x82#8, 0x82#8, 0x82#8, 0x9A#8, 0xDC#8, 0xFF#8⟩
    = ⟨0xA7#8, 0x25#8, 0xA7#8, 0x25#8, 0xBF#8, 0x63#8, 0x9C#8⟩

/-- R123: two different triples never give the same frame; the stages are undone one by one. -/
def Obligations.BuildFrameIsInjective : Prop :=
  ∀ (rid rid' : RemoteId) (cmd cmd' : Command) (code code' : CodeField),
    (buildFrame rid cmd code = buildFrame rid' cmd' code' → rid = rid' ∧ cmd = cmd' ∧ code = code') ∧
    deobfuscate (buildFrame rid cmd code)
      = insertChecksum (assemble rid cmd code) (checksum (assemble rid cmd code)) ∧
    { insertChecksum (assemble rid cmd code) (checksum (assemble rid cmd code)) with
        b1 := (insertChecksum (assemble rid cmd code) (checksum (assemble rid cmd code))).b1 &&& 0xF0#8 }
      = assemble rid cmd code ∧
    commandOfNibble (highNibble (assemble rid cmd code).b1) = some cmd ∧
    (assemble rid cmd code).b2 ++ (assemble rid cmd code).b3 = code ∧
    (assemble rid cmd code).b4 ++ (assemble rid cmd code).b5 ++ (assemble rid cmd code).b6 = rid

/-- R110, R113, R115, R117: in every phase `BUILD_FRAME` returns the obfuscated frame of the assembled and checksummed
bytes, and changes nothing else. -/
def Obligations.BuildFrameReturnsTheObfuscatedFrame : Prop :=
  ∀ (rid : RemoteId) (cmd : Command) (code : CodeField) (s : State),
    ∃ p : Frame,
      p = ⟨0xA7#8, (commandNibble cmd).setWidth 8 <<< 4, (code >>> 8).setWidth 8, code.setWidth 8,
           (rid >>> 16).setWidth 8, (rid >>> 8).setWidth 8, rid.setWidth 8⟩ ∧
      exec (.buildFrame rid cmd code) s
        = .next { s with result := some (.frame (obfuscate { p with b1 := p.b1 ||| (checksum p).setWidth 8 })) }

/-- R118 to R121: the four command rows build the frame of their command; byte 1 before obfuscation is `CMD << 4 | (K
^ CMD)`, with K the XOR of the twelve nibbles that do not depend on the command. -/
def Obligations.CommandRowsBuildTheFrameOfTheirCommand : Prop :=
  ∀ (rid : RemoteId) (code : CodeField) (s : State) (i : Instr) (n : Nibble),
    (i, n) ∈ [(Instr.up rid code, 0x2#4), (Instr.stop rid code, 0x1#4), (Instr.down rid code, 0x4#4),
              (Instr.prog rid code, 0x8#4)] →
    ∃ k : Nibble,
      k = nibbleXor ⟨0xA7#8, 0x00#8, codeHigh code, codeLow code, ridHigh rid, ridMiddle rid, ridLow rid⟩ ∧
      exec i s = .next { s with result := some (.frame (obfuscate
        ⟨0xA7#8, n ++ (k ^^^ n), codeHigh code, codeLow code, ridHigh rid, ridMiddle rid, ridLow rid⟩)) }

/-- The worked examples of R117 to R121 (the canonical fixture of 95_test_vectors.md W1 and its three sisters). -/
def Obligations.CanonicalFixtureFrames : Prop :=
  buildFrame 0x184623#24 .up 0x0000#16 = ⟨0xA7#8, 0x82#8, 0x82#8, 0x82#8, 0x9A#8, 0xDC#8, 0xFF#8⟩ ∧
  buildFrame 0x184623#24 .stop 0x0000#16 = ⟨0xA7#8, 0xB1#8, 0xB1#8, 0xB1#8, 0xA9#8, 0xEF#8, 0xCC#8⟩ ∧
  buildFrame 0x184623#24 .down 0x0000#16 = ⟨0xA7#8, 0xE4#8, 0xE4#8, 0xE4#8, 0xFC#8, 0xBA#8, 0x99#8⟩ ∧
  buildFrame 0x184623#24 .prog 0x0000#16 = ⟨0xA7#8, 0x28#8, 0x28#8, 0x28#8, 0x30#8, 0x76#8, 0x55#8⟩

/-! ## The store -/

/-- R61: a write gives its slot the value and leaves every other slot, keeps the canonical form and the bound of R24,
and repeating it changes nothing. -/
def Obligations.StoreWriteChangesOnlyItsSlot : Prop :=
  ∀ (m : Memory) (a b : Slot) (v cw : Nat),
    (m.write a v).read a = .value v ∧
    (b ≠ a → (m.write a v).read b = m.read b) ∧
    (m.wf = true → (m.write a v).wf = true) ∧
    (m.fits cw = true → v < 2 ^ cw → (m.write a v).fits cw = true) ∧
    ((m.write a v).write a v = m.write a v)

/-- Canonical stores that read alike at every slot are equal data. -/
def Obligations.CanonicalStoresThatReadAlikeAreEqual : Prop :=
  ∀ m m' : Memory, m.wf = true → m'.wf = true → (∀ a : Slot, m.read a = m'.read a) → m = m'

/-- R140: in every phase `CURRENT_CODE` returns the cell, `ABSENT` included (D24), and writes nothing; when the read
fails it raises `StorageError(READ, s)`. -/
def Obligations.CurrentCodeReadsWithoutMutation : Prop :=
  ∀ (slot : Slot) (s : State),
    (s.drawAt 0 = false →
      exec (.currentCode slot) s = .next { s.afterDraws 1 with result := some (.cell (s.store.read slot)) }) ∧
    (s.drawAt 0 = true →
      exec (.currentCode slot) s
        = .next { s.afterDraws 1 with staged := [], errlog := s.errlog ++ [.storageError .read slot],
                                      result := some (.error (.storageError .read slot)) })

/-- R141: on a slot that holds v, `TAKE_AND_ADVANCE` returns v and commits v + 1; nothing else changes. -/
def Obligations.TakeReturnsTheHeldCodeAndCommitsTheNext : Prop :=
  ∀ (slot : Slot) (d v : Nat) (s : State), s.phase = .run → s.staged = [] → s.callsSucceed 3 →
    s.store.read slot = .value v → v ≠ 2 ^ s.codeWidth - 1 →
    ∃ t, exec (.takeAndAdvance slot d) s = .next t ∧
      t = { s.afterDraws 3 with store := s.store.write slot (v + 1), result := some (.code v) } ∧
      t.store.read slot = .value (v + 1) ∧ (∀ a ≠ slot, t.store.read a = s.store.read a)

/-- R142, by D11: on an absent slot `TAKE_AND_ADVANCE` uses the default, committing it first; the slot ends at default
+ 1. -/
def Obligations.TakeOnAnAbsentSlotUsesTheDefault : Prop :=
  ∀ (slot : Slot) (d : Nat) (s : State), s.phase = .run → s.staged = [] → s.callsSucceed 5 →
    s.store.read slot = .absent → d ≠ 2 ^ s.codeWidth - 1 →
    ∃ t, exec (.takeAndAdvance slot d) s = .next t ∧
      t = { s.afterDraws 5 with store := s.store.write slot (d + 1), result := some (.code d) } ∧
      t.store.read slot = .value (d + 1) ∧ (∀ a ≠ slot, t.store.read a = s.store.read a)

/-- R143, by D7: at `2^CODE_WIDTH - 1` the operation raises `CounterExhausted` and writes nothing more; an absent slot
whose default is that value holds it afterwards (R144). -/
def Obligations.ExhaustedCounterIsNeverSentOrWrapped : Prop :=
  ∀ (slot : Slot) (d : Nat) (s : State), s.phase = .run → s.staged = [] →
    (s.callsSucceed 1 → s.store.read slot = .value (2 ^ s.codeWidth - 1) →
      exec (.takeAndAdvance slot d) s
        = .next { s.afterDraws 1 with
            errlog := s.errlog ++ [.counterExhausted slot (2 ^ s.codeWidth - 1)],
            result := some (.error (.counterExhausted slot (2 ^ s.codeWidth - 1))) }) ∧
    (s.callsSucceed 3 → s.store.read slot = .absent → d = 2 ^ s.codeWidth - 1 →
      exec (.takeAndAdvance slot d) s
        = .next { s.afterDraws 3 with
            store := s.store.write slot d,
            errlog := s.errlog ++ [.counterExhausted slot d],
            result := some (.error (.counterExhausted slot d)) })

/-- R144, by D11 and D12, the rows of a failing store call: which error is raised and what the slot holds afterwards.
The two rows of the exhaustion check are `ExhaustedCounterIsNeverSentOrWrapped`. -/
def Obligations.TakeFailureLeavesTheLastCommittedValue : Prop :=
  ∀ (slot : Slot) (d : Nat) (s : State), s.phase = .run → s.staged = [] →
    (s.drawAt 0 = true →
      exec (.takeAndAdvance slot d) s
        = .next { s.afterDraws 1 with errlog := s.errlog ++ [.storageError .read slot],
                                      result := some (.error (.storageError .read slot)) }) ∧
    (s.store.read slot = .absent → s.callsSucceed 1 → s.drawAt 1 = true →
      exec (.takeAndAdvance slot d) s
        = .next { s.afterDraws 2 with errlog := s.errlog ++ [.storageError .write slot],
                                      result := some (.error (.storageError .write slot)) }) ∧
    (s.store.read slot = .absent → s.callsSucceed 2 → s.drawAt 2 = true →
      exec (.takeAndAdvance slot d) s
        = .next { s.afterDraws 3 with errlog := s.errlog ++ [.storageError .commit slot],
                                      result := some (.error (.storageError .commit slot)) }) ∧
    (s.store.read slot = .absent → d ≠ 2 ^ s.codeWidth - 1 → s.callsSucceed 3 → s.drawAt 3 = true →
      exec (.takeAndAdvance slot d) s
        = .next { s.afterDraws 4 with store := s.store.write slot d,
                                      errlog := s.errlog ++ [.storageError .write slot],
                                      result := some (.error (.storageError .write slot)) }) ∧
    (s.store.read slot = .absent → d ≠ 2 ^ s.codeWidth - 1 → s.callsSucceed 4 → s.drawAt 4 = true →
      exec (.takeAndAdvance slot d) s
        = .next { s.afterDraws 5 with store := s.store.write slot d,
                                      errlog := s.errlog ++ [.storageError .commit slot],
                                      result := some (.error (.storageError .commit slot)) }) ∧
    (∀ c, s.store.read slot = .value c → c ≠ 2 ^ s.codeWidth - 1 →
      (s.callsSucceed 1 → s.drawAt 1 = true →
        exec (.takeAndAdvance slot d) s
          = .next { s.afterDraws 2 with errlog := s.errlog ++ [.storageError .write slot],
                                        result := some (.error (.storageError .write slot)) }) ∧
      (s.callsSucceed 2 → s.drawAt 2 = true →
        exec (.takeAndAdvance slot d) s
          = .next { s.afterDraws 3 with errlog := s.errlog ++ [.storageError .commit slot],
                                        result := some (.error (.storageError .commit slot)) }))

/-- R145: N calls in sequence on a fresh slot with default D yield D, D+1, …, D+N-1, and after call N the slot holds
D+N. -/
def Obligations.FreshSlotYieldsConsecutiveCodes : Prop :=
  ∀ (n : Nat) (slot : Slot) (d : Nat) (s : State), s.phase = .run → s.staged = [] →
    s.store.read slot = .absent → d + (n + 1) ≤ 2 ^ s.codeWidth - 1 → s.callsSucceed (3 * n + 5) →
    ∃ t, execAll (List.replicate (n + 1) (.takeAndAdvance slot d)) s = .next t ∧
      t.result = some (.code (d + n)) ∧ t.store.read slot = .value (d + (n + 1)) ∧ t.errlog = s.errlog

/-- R146: a later successful `TAKE_AND_ADVANCE` on the same slot returns a strictly larger code than an earlier one,
whatever happens between them, restarts included, as long as no move between them starts in STARTUP with `RESET_REQ = 1`.
That premise shuts out every move that may reset a counter, and with it moves there that reset none. -/
def Obligations.LaterTakeReturnsALargerCode : Prop :=
  ∀ (slot : Slot) (d d' c c' n : Nat) (s s1 s2 s3 : State), s.staged = [] →
    exec (.takeAndAdvance slot d) s = .next s1 → s1.result = some (.code c) →
    RunWithoutReset n s1 s2 →
    exec (.takeAndAdvance slot d') s2 = .next s3 → s3.result = some (.code c') →
    c < c'

/-- R150, R146: a move that is not in STARTUP with `RESET_REQ = 1` lowers no counter and empties no slot. Every move
is covered: operations, boot, segments of a burst and restarts. -/
def Obligations.OnlyAResetLowersACounter : Prop :=
  ∀ (s t : State), s.staged = [] → mayReset s = false → step s = .next t →
    ∀ (slot : Slot) (v : Nat), s.store.read slot = .value v → ∃ w, t.store.read slot = .value w ∧ v ≤ w

/-- R148, R149 (D15): in STARTUP with `RESET_REQ = 1`, `RESET_ALL` writes every listed default in list order, and for
a list without repeats every listed slot holds its default and every other slot is unchanged. -/
def Obligations.ResetAllWritesEveryDefault : Prop :=
  ∀ (l : List (Slot × Nat)) (s : State), s.phase = .startup → s.config.resetReq = true → s.staged = [] →
    s.callsSucceed (2 * l.length) →
    ∃ t, exec (.resetAll l) s = .next t ∧
      t = { s.afterDraws (2 * l.length) with store := s.store.writeAll l, result := some .done } ∧
      ((l.map Prod.fst).Nodup → ∀ sd ∈ l, t.store.read sd.1 = .value sd.2) ∧
      (∀ a, a ∉ l.map Prod.fst → t.store.read a = s.store.read a)

/-- R148 at its first failing primitive (D14, D15): the slots before it hold their new defaults, the failing slot and
the slots after it are unchanged. That a `StorageError` halts the block is R236; that it does so for a host's own
`RESET_ALL` is the model's reading (log 17). -/
def Obligations.ResetAllStopsAtTheFirstFailure : Prop :=
  ∀ (pre post : List (Slot × Nat)) (slot : Slot) (d : Nat) (stage : Stage) (n : Nat) (s : State),
    s.phase = .startup → s.config.resetReq = true → s.staged = [] →
    (n, stage) ∈ [(2 * pre.length, Stage.write), (2 * pre.length + 1, Stage.commit)] →
    s.callsSucceed n → s.drawAt n = true → ((pre ++ (slot, d) :: post).map Prod.fst).Nodup →
    ∃ t, exec (.resetAll (pre ++ (slot, d) :: post)) s = .next t ∧
      t = { s.afterDraws (n + 1) with
              store := s.store.writeAll pre, phase := .halted,
              errlog := s.errlog ++ [.storageError stage slot],
              result := some (.error (.storageError stage slot)) } ∧
      (∀ sd ∈ pre, t.store.read sd.1 = .value sd.2) ∧
      (∀ sd ∈ (slot, d) :: post, t.store.read sd.1 = s.store.read sd.1)

/-! ## The transmitter -/

/-- R172: one physical transmission, first or repeat: wake on the first only, 2 or 7 hardware syncs, software sync,
112 half bits, silence. The half bits are `DataBitsGoOutMostSignificantFirst`. -/
def Obligations.TransmissionSequence : Prop :=
  ∀ g : Frame,
    (frameSegments g true).take 8 =
      [⟨.high, 9415⟩, ⟨.low, 89565⟩, ⟨.high, 2560⟩, ⟨.low, 2560⟩, ⟨.high, 2560⟩, ⟨.low, 2560⟩, ⟨.high, 4550⟩,
       ⟨.low, 640⟩] ∧
    (frameSegments g false).take 16 =
      [⟨.high, 2560⟩, ⟨.low, 2560⟩, ⟨.high, 2560⟩, ⟨.low, 2560⟩, ⟨.high, 2560⟩, ⟨.low, 2560⟩, ⟨.high, 2560⟩,
       ⟨.low, 2560⟩, ⟨.high, 2560⟩, ⟨.low, 2560⟩, ⟨.high, 2560⟩, ⟨.low, 2560⟩, ⟨.high, 2560⟩, ⟨.low, 2560⟩,
       ⟨.high, 4550⟩, ⟨.low, 640⟩] ∧
    (frameSegments g true).drop 120 = [⟨.low, 30415⟩] ∧ (frameSegments g false).drop 128 = [⟨.low, 30415⟩]

/-- R88, and R59 by D2: bit n of the 56, byte 0 first and bit 7 of each byte first, is two halves of 640 µs: LOW then
HIGH for a 1, HIGH then LOW for a 0. -/
def Obligations.DataBitsGoOutMostSignificantFirst : Prop :=
  ∀ (g : Frame) (first : Bool) (n : Nat), n < 56 →
    ∃ b : Bool, (frameBytes g)[n / 8]?.map (fun byte => byte.getLsbD (7 - n % 8)) = some b ∧
      (frameSegments g first)[(if first then 8 else 16) + 2 * n]? = some ⟨if b then .low else .high, 640⟩ ∧
      (frameSegments g first)[(if first then 8 else 16) + 2 * n + 1]? = some ⟨if b then .high else .low, 640⟩

/-- R173, R175: segment counts and nominal durations, the same for every frame. -/
def Obligations.TransmissionCountsAndDurations : Prop :=
  ∀ g : Frame,
    (dataSegments g).length = 112 ∧ totalUs (dataSegments g) = 71680 ∧
    (frameSegments g true).length = 121 ∧ totalUs (frameSegments g true) = 216505 ∧
    (frameSegments g false).length = 129 ∧ totalUs (frameSegments g false) = 143125 ∧
    (burst g).length = 379 ∧ totalUs (burst g) = 502755

/-- R174, by D25 and D37: in RUN `TRANSMIT_BURST` appends the first transmission and two repeats of whatever 7 bytes
it is given (R183), leaves the line LOW and `TX` idle, returns OK, and touches no store cell. -/
def Obligations.TransmitBurstSendsThreeTransmissions : Prop :=
  ∀ (g : Frame) (s : State), s.phase = .run →
    exec (.transmitBurst g) s
      = .next { s with
          line := .low, tx := .idle,
          trace := s.trace ++ (frameSegments g true ++ frameSegments g false ++ frameSegments g false),
          result := some .done }

/-- R176: run one segment a move, an operation that reaches its burst gives the same state as run to its end in one move:
380 moves after the request, 1 for what precedes the first `Emit` and 379 segments; what waits behind it must not be
passing time or a restart. A request that reaches no burst (an error before it, an operation without one, a payload or
bytes that name no instruction) is one move in both readings. -/
def Obligations.SegmentLevelBurstEqualsTheAtomicBurst : Prop :=
  (∀ (req : Request) (i : Instr) (r : Frame × Result) (rest : List Event) (s m : State),
    decode req = .ok i → i.wellFormed s.codeWidth = true → s.tx = .idle → s.burstResult = none →
    burstWork i { s with inbox := rest } = some (.ok r m) →
    (∀ e es, rest = e :: es → e.waitsForBurst = true) →
    moves 380 { s with inbox := .stepwise req :: rest }
      = step { s with inbox := .operation req :: rest }) ∧
  (∀ (req : Request) (rest : List Event) (s : State), s.tx = .idle →
    (∀ i r m, decode req = .ok i → burstWork i { s with inbox := rest } ≠ some (.ok r m)) →
    step { s with inbox := .stepwise req :: rest } = step { s with inbox := .operation req :: rest })

/-- R176, R179, R180, R207: while a burst runs a move emits exactly one segment and sets `TX` as R176 says; the last one
ends the burst and returns its result. Every event but passing time and a restart waits, in order. Nothing else changes.
That time may also pass with no event, or by a `tick`, and that a `tick` without a burst changes nothing, is the model's
choice (log 1); that the result waits in `burstResult` is log 12. -/
def Obligations.RunningBurstMakesEveryRequestWait : Prop :=
  (∀ (g : Frame) (k : Fin 3) (j : Nat) (rest : List Event) (s : State),
    s.tx = .busy g k j → j < (segmentsAt g k).length →
    (s.inbox = .tick :: rest ∨ s.inbox = rest ∧ ∀ e es, rest = e :: es → e.waitsForBurst = true) →
    ∃ seg, (segmentsAt g k)[j]? = some seg ∧
      step s = .next { s with
        inbox := rest
        line := seg.level
        trace := s.trace ++ [seg]
        tx := if j + 1 < (segmentsAt g k).length then .busy g k (j + 1)
              else if k = 0 then .busy g 1 0 else if k = 1 then .busy g 2 0 else .idle
        result := if k = 2 ∧ j + 1 = (segmentsAt g k).length then s.burstResult else s.result
        burstResult := if k = 2 ∧ j + 1 = (segmentsAt g k).length then none else s.burstResult }) ∧
  (∀ (rest : List Event) (s : State), s.tx = .idle → s.inbox = .tick :: rest →
    step s = .next { s with inbox := rest })

/-- R182, by D22: merging leaves the level at every microsecond, and so the total duration, as it was; it leaves no two
neighbours of one level, and makes no empty segment. -/
def Obligations.MergingKeepsTimeAndAlternates : Prop :=
  ∀ segs : List Segment,
    waveform (mergeAdjacent segs) = waveform segs ∧ totalUs (mergeAdjacent segs) = totalUs segs ∧
    (∀ (i : Nat) (a b : Segment), (mergeAdjacent segs)[i]? = some a → (mergeAdjacent segs)[i + 1]? = some b →
      a.level ≠ b.level) ∧
    ((∀ seg ∈ segs, 0 < seg.duration) → ∀ seg ∈ mergeAdjacent segs, 0 < seg.duration)

/-- R177, by D4: a real burst lasts within 379 times `JITTER_US` of its nominal 502 755 µs. -/
def Obligations.RealBurstDurationIsWithinTheJitter : Prop :=
  ∀ (g : Frame) (real : List Segment), withinJitter (burst g) real →
    totalUs real ≤ 502755 + 379 * Config.jitterUs ∧ 502755 ≤ totalUs real + 379 * Config.jitterUs

/-- R260 (derived in the spec), R175, R184 by D26: in a state with the block's invariant `TRACE` is whole bursts, each of
379 segments, with what is emitted of the running one behind them; whatever time passes before each burst, two of its
bursts, the running or the next one included, start at least 502 755 µs nominal apart. That the time before a burst is an
argument and no state is log 22. -/
def Obligations.BurstsStartAtLeastOneBurstApart : Prop :=
  ∀ s : State, BlockInvariant s → ∃ sent : List Frame,
    (s.tx = .idle → s.trace.length = 379 * sent.length) ∧
    (∀ g k j, s.tx = .busy g k j → s.trace.drop (379 * sent.length) = emittedBefore g k j) ∧
    (∀ (n : Nat) (f : Frame), sent[n]? = some f → (s.trace.drop (379 * n)).take 379 = burst f) ∧
    ∀ (gap : Nat → Nat) (n m : Nat), n < m → m ≤ sent.length →
      burstStartUs gap s.trace n + 502755 ≤ burstStartUs gap s.trace m

/-! ## The command path -/

/-- R200, R204, R205: in RUN, for a known remote whose counter holds v, `SEND_COMMAND` and the payload letter of the
same command commit v + 1 once, send the frame of code v three times and return OK(v). -/
def Obligations.SendTakesTheHeldCodeBuildsAndSends : Prop :=
  ∀ (r v : Nat) (cmd : Command) (i : Instr) (p : Profile) (s : State),
    (i, cmd) ∈ [(Instr.sendCommand r cmd, cmd), (Instr.sendU r, Command.up), (Instr.sendS r, Command.stop),
                (Instr.sendD r, Command.down), (Instr.sendP r, Command.prog)] →
    s.phase = .run → s.config.profiles[r]? = some p → s.staged = [] → s.callsSucceed 3 →
    s.store.read p.slot = .value v → v ≠ 2 ^ s.codeWidth - 1 →
    exec i s = .next { s.afterDraws 3 with
      store := s.store.write p.slot (v + 1), line := .low, tx := .idle,
      trace := s.trace ++ burst (buildFrame (BitVec.ofNat 24 p.id) cmd (BitVec.ofNat 16 v)),
      result := some (.code v) }

/-- R200, R142: the same on an absent slot, with the remote's default. -/
def Obligations.SendOnAnAbsentSlotUsesTheDefault : Prop :=
  ∀ (r : Nat) (cmd : Command) (i : Instr) (p : Profile) (s : State),
    (i, cmd) ∈ [(Instr.sendCommand r cmd, cmd), (Instr.sendU r, Command.up), (Instr.sendS r, Command.stop),
                (Instr.sendD r, Command.down), (Instr.sendP r, Command.prog)] →
    s.phase = .run → s.config.profiles[r]? = some p → s.staged = [] → s.callsSucceed 5 →
    s.store.read p.slot = .absent → p.defaultCode ≠ 2 ^ s.codeWidth - 1 →
    exec i s = .next { s.afterDraws 5 with
      store := s.store.write p.slot (p.defaultCode + 1), line := .low, tx := .idle,
      trace := s.trace ++ burst (buildFrame (BitVec.ofNat 24 p.id) cmd (BitVec.ofNat 16 p.defaultCode)),
      result := some (.code p.defaultCode) }

/-- R202, R205 (for `CounterExhausted` by D7): when `TAKE_AND_ADVANCE` raises an error, `SEND_COMMAND` and the four letters
raise the same one and end with the same store; they emit no segment, and `LINE`, `TX` and `TRACE` are unchanged. -/
def Obligations.SendAbortsAsTakeDoes : Prop :=
  ∀ (r : Nat) (cmd : Command) (i : Instr) (p : Profile) (e : ErrorRecord) (s t : State),
    i ∈ [Instr.sendCommand r cmd, Instr.sendU r, Instr.sendS r, Instr.sendD r, Instr.sendP r] →
    s.phase = .run → s.config.profiles[r]? = some p →
    exec (.takeAndAdvance p.slot p.defaultCode) s = .next t → t.result = some (.error e) →
    exec i s = .next t ∧ t.errlog = s.errlog ++ [e] ∧
      t.line = s.line ∧ t.tx = s.tx ∧ t.trace = s.trace

/-- R65, R201, R205: whenever `SEND_COMMAND` or a payload letter emits anything, the successor of the code it sends is
committed, and what it emits is the whole burst of that code's frame. -/
def Obligations.NothingIsSentBeforeItsCommit : Prop :=
  ∀ (r : Nat) (cmd : Command) (i : Instr) (s t : State),
    (i, cmd) ∈ [(Instr.sendCommand r cmd, cmd), (Instr.sendU r, Command.up), (Instr.sendS r, Command.stop),
                (Instr.sendD r, Command.down), (Instr.sendP r, Command.prog)] →
    s.staged = [] → exec i s = .next t → t.trace ≠ s.trace →
    ∃ p c, s.config.profiles[r]? = some p ∧ t.result = some (.code c) ∧ t.store.read p.slot = .value (c + 1) ∧
      c ≠ 2 ^ s.codeWidth - 1 ∧
      t.trace = s.trace ++ burst (buildFrame (BitVec.ofNat 24 p.id) cmd (BitVec.ofNat 16 c))

/-- R206, by D31: an index `r >= N` raises `MalformedCommand(REMOTE, r)` and changes nothing but `ERRLOG`, for
`SEND_COMMAND` and the four letters. -/
def Obligations.UnknownRemoteIsMalformed : Prop :=
  ∀ (r : Nat) (cmd : Command) (i : Instr) (s : State),
    i ∈ [Instr.sendCommand r cmd, Instr.sendU r, Instr.sendS r, Instr.sendD r, Instr.sendP r] →
    s.phase = .run → s.config.profiles.length ≤ r → s.staged = [] →
    exec i s = .next { s with errlog := s.errlog ++ [.malformedCommand (.remote r)],
                              result := some (.error (.malformedCommand (.remote r))) }

/-- R205, R224, R230 (the letters' byte values are general knowledge, G1, log 10; the order of checks D36): a payload
of exactly one of the four letters is `SEND_COMMAND` of its command; every other payload, in every phase, raises
`MalformedCommand(PAYLOAD, payload)` and changes nothing but `ERRLOG`. -/
def Obligations.PayloadDecoding : Prop :=
  ∀ (r : Nat) (bytes : List Byte) (s : State) (rest : List Event), s.tx = .idle → s.staged = [] →
    s.inbox = .operation (.payload r bytes) :: rest →
    (∀ cmd : Command, (bytes, cmd) ∈ [([0x75#8], Command.up), ([0x73#8], Command.stop), ([0x64#8], Command.down),
                                      ([0x70#8], Command.prog)] →
      step s = exec (.sendCommand r cmd) { s with inbox := rest }) ∧
    (bytes ∉ [[0x75#8], [0x73#8], [0x64#8], [0x70#8]] →
      step s = .next { s with inbox := rest, errlog := s.errlog ++ [.malformedCommand (.payload bytes)],
                              result := some (.error (.malformedCommand (.payload bytes))) })

/-! ## Errors and phases -/

/-- R227, R235, by D20 and D36: outside RUN, `TAKE_AND_ADVANCE`, `TRANSMIT_BURST`, `SEND_COMMAND` and the four letters
raise `PhaseError(OP, PHASE)`; so does `RESET_ALL` outside STARTUP or without `RESET_REQ`. Nothing but `ERRLOG`
changes. -/
def Obligations.UnadmittedOperationsRaisePhaseError : Prop :=
  ∀ (slot : Slot) (d r : Nat) (g : Frame) (cmd : Command) (l : List (Slot × Nat)) (i : Instr) (op : Byte) (s : State),
    s.staged = [] →
    ((i, op) ∈ [(Instr.takeAndAdvance slot d, 0x03#8), (Instr.transmitBurst g, 0x05#8),
                (Instr.sendCommand r cmd, 0x06#8), (Instr.sendU r, 0x06#8), (Instr.sendS r, 0x06#8),
                (Instr.sendD r, 0x06#8), (Instr.sendP r, 0x06#8)] ∧ s.phase ≠ .run ∨
     (i, op) = (Instr.resetAll l, 0x04#8) ∧ ¬ (s.phase = .startup ∧ s.config.resetReq = true)) →
    exec i s = .next { s with errlog := s.errlog ++ [.phaseError op s.phase],
                              result := some (.error (.phaseError op s.phase)) }

/-- R235, R227, by D20: an operation that returns a `PhaseError` names its own selector and the phase it was invoked in,
and the table does not admit it in that phase; the operations admitted everywhere never return one. -/
def Obligations.AdmittedOperationsRaiseNoPhaseError : Prop :=
  ∀ (i : Instr) (s t : State) (op : Byte) (ph : Phase), exec i s = .next t → t.result = some (.error (.phaseError op ph)) →
    ph = s.phase ∧
    (match i with
     | .buildFrame _ _ _ => False
     | .currentCode _ => False
     | .takeAndAdvance _ _ => op = 0x03#8 ∧ s.phase ≠ .run
     | .resetAll _ => op = 0x04#8 ∧ ¬ (s.phase = .startup ∧ s.config.resetReq = true)
     | .transmitBurst _ => op = 0x05#8 ∧ s.phase ≠ .run
     | .sendCommand _ _ => op = 0x06#8 ∧ s.phase ≠ .run
     | .reservedSelector _ => False
     | .up _ _ => False
     | .stop _ _ => False
     | .down _ _ => False
     | .prog _ _ => False
     | .sendU _ => op = 0x06#8 ∧ s.phase ≠ .run
     | .sendS _ => op = 0x06#8 ∧ s.phase ≠ .run
     | .sendD _ => op = 0x06#8 ∧ s.phase ≠ .run
     | .sendP _ => op = 0x06#8 ∧ s.phase ≠ .run)

/-- R29, R230, R231, R221, R225: every operation ends; it returns OK and leaves `ERRLOG`, or returns one error and
appends exactly that record, with no segment emitted. No operation raises `ConfigError` or `TransportUnavailable`. -/
def Obligations.EveryOperationReturnsOkOrOneRecordedError : Prop :=
  ∀ (i : Instr) (s : State), ∃ t, exec i s = .next t ∧
    ((∃ v, t.result = some v ∧ (∀ e, v ≠ .error e) ∧ t.errlog = s.errlog) ∨
     (∃ e, t.result = some (.error e) ∧ t.errlog = s.errlog ++ [e] ∧ t.staged = [] ∧
       t.trace = s.trace ∧ t.line = s.line ∧ t.tx = s.tx ∧
       e ≠ .transportUnavailable ∧ ∀ reason r1 r2, e ≠ .configError reason r1 r2))

/-- R21, R236 (D14; a host's own `RESET_ALL`: log 17): no operation writes `CONFIG` or `CODE_WIDTH` or the host's
events, and the phase changes only when `RESET_ALL` fails in STARTUP, to HALTED; in RUN any error leaves RUN. -/
def Obligations.OperationsNeverWriteConfigAndRarelyPhase : Prop :=
  ∀ (i : Instr) (s t : State), exec i s = .next t →
    t.config = s.config ∧ t.codeWidth = s.codeWidth ∧ t.inbox = s.inbox ∧ t.burstResult = s.burstResult ∧
    (t.phase = s.phase ∨
      s.phase = .startup ∧ t.phase = .halted ∧ (∃ l, i = .resetAll l) ∧
        ∃ stage slot, t.result = some (.error (.storageError stage slot)))

/-- Which operations can change which state (R117, R140, R141, R148, R174, R200, "State written"): the store only by
`TAKE_AND_ADVANCE`, `RESET_ALL` and the sending forms; `LINE`, `TX` and `TRACE` only by the sending forms and
`TRANSMIT_BURST`. A slot other than the operation's own is never written. -/
def Obligations.OperationsWriteOnlyTheirOwnState : Prop :=
  ∀ (i : Instr) (s t : State), s.staged = [] → exec i s = .next t →
    t.staged = [] ∧
    (match i with
     | .buildFrame _ _ _ => t.store = s.store ∧ t.trace = s.trace ∧ t.line = s.line ∧ t.tx = s.tx
     | .currentCode _ => t.store = s.store ∧ t.trace = s.trace ∧ t.line = s.line ∧ t.tx = s.tx
     | .takeAndAdvance slot _ =>
         (∀ a ≠ slot, t.store.read a = s.store.read a) ∧ t.trace = s.trace ∧ t.line = s.line ∧ t.tx = s.tx
     | .resetAll l =>
         (∀ a, a ∉ l.map Prod.fst → t.store.read a = s.store.read a) ∧
         t.trace = s.trace ∧ t.line = s.line ∧ t.tx = s.tx
     | .transmitBurst _ => t.store = s.store
     | .sendCommand r _ =>
         ∀ a, (∀ p, s.config.profiles[r]? = some p → a ≠ p.slot) → t.store.read a = s.store.read a
     | .reservedSelector _ => t.store = s.store ∧ t.trace = s.trace ∧ t.line = s.line ∧ t.tx = s.tx
     | .up _ _ => t.store = s.store ∧ t.trace = s.trace ∧ t.line = s.line ∧ t.tx = s.tx
     | .stop _ _ => t.store = s.store ∧ t.trace = s.trace ∧ t.line = s.line ∧ t.tx = s.tx
     | .down _ _ => t.store = s.store ∧ t.trace = s.trace ∧ t.line = s.line ∧ t.tx = s.tx
     | .prog _ _ => t.store = s.store ∧ t.trace = s.trace ∧ t.line = s.line ∧ t.tx = s.tx
     | .sendU r => ∀ a, (∀ p, s.config.profiles[r]? = some p → a ≠ p.slot) → t.store.read a = s.store.read a
     | .sendS r => ∀ a, (∀ p, s.config.profiles[r]? = some p → a ≠ p.slot) → t.store.read a = s.store.read a
     | .sendD r => ∀ a, (∀ p, s.config.profiles[r]? = some p → a ≠ p.slot) → t.store.read a = s.store.read a
     | .sendP r => ∀ a, (∀ p, s.config.profiles[r]? = some p → a ≠ p.slot) → t.store.read a = s.store.read a)

/-- R181: no operation's result, and nothing it does to the store, the phase, the errors or the draws, depends on
`LINE` or `TRACE`; two runs that differ only there emit the same segments. -/
def Obligations.NoResultDependsOnLineOrTrace : Prop :=
  ∀ (i : Instr) (s t : State) (l : Level) (tr : List Segment), exec i s = .next t →
    ∃ t' out, exec i { s with line := l, trace := tr } = .next t' ∧
      t.trace = s.trace ++ out ∧ t'.trace = tr ++ out ∧
      { t' with line := t.line, trace := t.trace } = t

/-- R22: no operation reads `topicKey` or `travelTimeMs`: run with other keys and times it ends in the same state but
for them. -/
def Obligations.OperationsIgnoreTopicKeyAndTravelTime : Prop :=
  ∀ (i : Instr) (s t : State) (other : List Profile),
    other.map (fun p => (p.id, p.defaultCode, p.slot)) = s.config.profiles.map (fun p => (p.id, p.defaultCode, p.slot)) →
    exec i s = .next t →
    exec i { s with config := { s.config with profiles := other } }
      = .next { t with config := { t.config with profiles := other } }

/-- R236, R222, by D33: HALTED lasts until a restart; no segment is emitted and no store cell is written in it. -/
def Obligations.HaltedLastsUntilRestart : Prop :=
  ∀ (n : Nat) (s t : State), s.phase = .halted → s.tx = .idle → s.staged = [] →
    (∀ e ∈ s.inbox, e.isRestart = false) → moves n s = .next t →
    t.phase = .halted ∧ t.trace = s.trace ∧ t.line = s.line ∧ t.tx = .idle ∧ t.store = s.store

/-! ## Reset and boot -/

/-- R37 (`PHASE` by D20, `LINE` by D3, `TRACE` by D1, `ERRLOG` by D34, the width by D5): what the spec gives for
reset. `CONFIG`, `STORE0` and the model's own fields are not stated here. -/
def Obligations.ResetStateIsAsTheSpecSays : Prop :=
  State.reset.phase = .startup ∧ State.reset.staged = [] ∧ State.reset.line = .low ∧ State.reset.tx = .idle ∧
  State.reset.trace = [] ∧ State.reset.errlog = [] ∧ State.reset.codeWidth = 16

/-- R250, R37 (D3, D12): a restart gives every volatile component its reset value, loses staged writes, keeps the
committed store and takes the configuration anew, from any state, a running burst included. The model's choice, not the
spec's: that the events to come and the backend's draws, which belong to the outside, go on (log 30), and that
`CODE_WIDTH` is held in the state and kept (log 4). -/
def Obligations.RestartGivesResetValuesAndKeepsTheStore : Prop :=
  ∀ (cfg : Configuration) (rest : List Event) (s : State), s.inbox = .restart cfg :: rest →
    ∃ t, step s = .next t ∧
      t.phase = .startup ∧ t.staged = [] ∧ t.line = .low ∧ t.tx = .idle ∧ t.trace = [] ∧ t.errlog = [] ∧
      t.store = s.store ∧ t.codeWidth = s.codeWidth ∧ t.config = cfg ∧
      t.inbox = rest ∧ t.draws = s.draws ∧ t.drawCount = s.drawCount

/-- R251 (D32): the boot sequence from STARTUP. A failed check halts with `ConfigError` and touches no cell; otherwise
without `RESET_REQ` the block enters RUN; with it every profile's default is committed first. The model's choice: the
sequence runs on the event `boot`, or on its own where no event is to come (log 1, log 2); in another phase it has run
already and nothing happens (log 18). -/
def Obligations.BootSequence : Prop :=
  ∀ (rest : List Event) (s : State), s.tx = .idle → s.staged = [] →
    (s.inbox = .boot :: rest ∨ s.inbox = [] ∧ rest = []) →
    (s.phase ≠ .startup → step s = .next { s with inbox := rest }) ∧
    (s.phase = .startup →
      (∀ reason r1 r2, configCheck s.codeWidth s.config = some (reason, r1, r2) →
        step s = .next { s with inbox := rest, phase := .halted,
                                errlog := s.errlog ++ [.configError reason r1 r2],
                                result := some (.error (.configError reason r1 r2)) }) ∧
      (configCheck s.codeWidth s.config = none → s.config.resetReq = false →
        step s = .next { s with inbox := rest, phase := .run }) ∧
      (configCheck s.codeWidth s.config = none → s.config.resetReq = true →
        s.callsSucceed (2 * s.config.profiles.length) →
        step s = .next { s.afterDraws (2 * s.config.profiles.length) with
          inbox := rest, phase := .run,
          store := s.store.writeAll (s.config.profiles.map fun p => (p.slot, p.defaultCode)) }))

/-- R251, R148, D14: a `StorageError` of the boot sequence's `RESET_ALL` halts the block; the slots before the failing
one hold their new defaults and the others are unchanged. The sequence runs as in `BootSequence` (log 1, log 2). -/
def Obligations.FailedBootResetHalts : Prop :=
  ∀ (pre post : List Profile) (p : Profile) (stage : Stage) (n : Nat) (rest : List Event) (s : State),
    s.tx = .idle → (s.inbox = .boot :: rest ∨ s.inbox = [] ∧ rest = []) → s.staged = [] →
    s.phase = .startup → s.config.resetReq = true →
    s.config.profiles = pre ++ p :: post → configCheck s.codeWidth s.config = none →
    (n, stage) ∈ [(2 * pre.length, Stage.write), (2 * pre.length + 1, Stage.commit)] →
    s.callsSucceed n → s.drawAt n = true →
    ∃ t, step s = .next t ∧ t.phase = .halted ∧ t.trace = s.trace ∧
      t.errlog = s.errlog ++ [.storageError stage p.slot] ∧
      (∀ q ∈ pre, t.store.read q.slot = .value q.defaultCode) ∧
      (∀ q ∈ p :: post, t.store.read q.slot = s.store.read q.slot)

/-- R252 (D8, D9, C7): the check passes exactly the configurations with distinct ids, keys and slots and with ids and
defaults in range; an empty list passes. -/
def Obligations.ConfigCheckAcceptsExactlyTheLegalOnes : Prop :=
  ∀ (cw : Nat) (cfg : Configuration), configCheck cw cfg = none ↔
    (cfg.profiles.map Profile.id).Nodup ∧ (cfg.profiles.map Profile.topicKey).Nodup ∧
    (cfg.profiles.map Profile.slot).Nodup ∧ (∀ p ∈ cfg.profiles, p.id < 2 ^ 24) ∧
    (∀ p ∈ cfg.profiles, p.defaultCode < 2 ^ cw)

/-- R252 (D8, D9, C7): the first check that fails is reported. A `DUP_KEY` report means the ids passed, a `DUP_SLOT`
report that ids and keys passed, and so on; the indices name profiles that break the check, `r1 < r2` for a pair and
`r2 = r1` for a single profile, and no lower pair or index breaks it (lowest r1 first, then lowest r2: log 19). -/
def Obligations.ConfigCheckReportsTheFirstFailure : Prop :=
  ∀ (cw : Nat) (cfg : Configuration) (reason : ConfigReason) (r1 r2 : Nat),
    configCheck cw cfg = some (reason, r1, r2) →
    ∃ p q, cfg.profiles[r1]? = some p ∧ cfg.profiles[r2]? = some q ∧
      (match reason with
       | .dupId => r1 < r2 ∧ p.id = q.id ∧
           ∀ a b x y, cfg.profiles[a]? = some x → cfg.profiles[b]? = some y → a < b → x.id = y.id →
             r1 < a ∨ r1 = a ∧ r2 ≤ b
       | .dupKey => r1 < r2 ∧ p.topicKey = q.topicKey ∧ (cfg.profiles.map Profile.id).Nodup ∧
           ∀ a b x y, cfg.profiles[a]? = some x → cfg.profiles[b]? = some y → a < b → x.topicKey = y.topicKey →
             r1 < a ∨ r1 = a ∧ r2 ≤ b
       | .dupSlot => r1 < r2 ∧ p.slot = q.slot ∧ (cfg.profiles.map Profile.id).Nodup ∧
           (cfg.profiles.map Profile.topicKey).Nodup ∧
           ∀ a b x y, cfg.profiles[a]? = some x → cfg.profiles[b]? = some y → a < b → x.slot = y.slot →
             r1 < a ∨ r1 = a ∧ r2 ≤ b
       | .idRange => r1 = r2 ∧ 2 ^ 24 ≤ p.id ∧ (cfg.profiles.map Profile.id).Nodup ∧
           (cfg.profiles.map Profile.topicKey).Nodup ∧ (cfg.profiles.map Profile.slot).Nodup ∧
           ∀ a x, cfg.profiles[a]? = some x → 2 ^ 24 ≤ x.id → r1 ≤ a
       | .defaultRange => r1 = r2 ∧ 2 ^ cw ≤ p.defaultCode ∧ (cfg.profiles.map Profile.id).Nodup ∧
           (cfg.profiles.map Profile.topicKey).Nodup ∧ (cfg.profiles.map Profile.slot).Nodup ∧
           (∀ x ∈ cfg.profiles, x.id < 2 ^ 24) ∧
           ∀ a x, cfg.profiles[a]? = some x → 2 ^ cw ≤ x.defaultCode → r1 ≤ a)

/-- R257, R56: a restart that falls before store call n of `TAKE_AND_ADVANCE`, `SEND_COMMAND` or a payload letter takes
effect, and what the counter then is. On a counter at c: before the advancing commit (call 2) it stays c, after it it is
c + 1; an exhausted counter stays. On an absent slot: before the commit of the default D (call 2) it stays absent, then it
holds D until the advancing commit (call 4), then D + 1; an exhausted D stays. Every other slot is unchanged, and all
else is as after a restart. That the cut call stands for a failed one, with the calls before it succeeding, is the
model's reading (log 16). -/
def Obligations.CrashWindowsLeaveTheCommittedCounter : Prop :=
  ∀ (n : Nat) (slot : Slot) (d : Nat) (cfg : Configuration) (req : Request) (rest : List Event) (s : State),
    s.tx = .idle → s.staged = [] → s.phase = .run →
    ((∃ args, req = .select 0x03#8 args ∧ args.slot = slot ∧ args.dflt = d ∧ d < 2 ^ s.codeWidth) ∨
     ∃ r p, s.config.profiles[r]? = some p ∧ p.slot = slot ∧ p.defaultCode = d ∧
       ((∃ args, req = .select 0x06#8 args ∧ args.remote = r) ∨
        ∃ b : Byte, b ∈ [0x75#8, 0x73#8, 0x64#8, 0x70#8] ∧ req = .payload r [b])) →
    s.inbox = .restartInOperation req n cfg :: rest →
    ∃ t, step s = .next t ∧
      t = { s with
        inbox := rest, config := cfg, phase := .startup, line := .low, tx := .idle, trace := [], errlog := [],
        result := none, burstResult := none, store := t.store } ∧
      (∀ a ≠ slot, t.store.read a = s.store.read a) ∧
      (∀ c, s.store.read slot = .value c →
        t.store.read slot = if n ≤ 2 ∨ c = 2 ^ s.codeWidth - 1 then .value c else .value (c + 1)) ∧
      (s.store.read slot = .absent →
        t.store.read slot =
          if n ≤ 2 then .absent else if n ≤ 4 ∨ d = 2 ^ s.codeWidth - 1 then .value d else .value (d + 1))

/-! ## The machine -/

/-- R36, R207: a move with no burst running and a request that decodes to a well-formed instruction next in the inbox
is that instruction, run to its end on the state without the request. The model's choice, not the spec's: that a move
serves the first of the events (log 1), and that a request which comes before the boot sequence is served in STARTUP
(log 2), where R250 says that the block runs the boot sequence. -/
def Obligations.StepRunsTheDecodedInstruction : Prop :=
  ∀ (req : Request) (i : Instr) (rest : List Event) (s : State), s.tx = .idle →
    s.inbox = .operation req :: rest → decode req = .ok i → i.wellFormed s.codeWidth = true →
    step s = exec i { s with inbox := rest }

/-- The invariant holds at reset. -/
def Obligations.BlockInvariantAtReset : Prop := BlockInvariant State.reset

/-- Every move keeps the invariant, from every state that has it: the store canonical and in range (R24), nothing
staged (R54), LOW between bursts (R184), legal `TX` (R27), whole bursts (R178), durability before emission (R65), only
checked configurations in RUN (R21) and silence outside RUN (R222). -/
def Obligations.EveryMoveKeepsTheBlockInvariant : Prop :=
  ∀ s t : State, BlockInvariant s → step s = .next t → BlockInvariant t

/-! ## Stops, and what a cut leaves -/

/-- Where a move stops. A fault: exactly at a transmitter position that R27 does not give (log 21), so never in a state
with the block's invariant. A refusal: exactly for bytes that are no frame (R80, R81; log 9), a frame with a reserved
command nibble (R83, I6), and a default that does not fit `CODE_WIDTH` bits (R141, R148; log 20). That these requests are
refused by name, and not run, is the model's choice (the logs named). -/
def Obligations.MovesStopExactlyWhereNamed : Prop :=
  ∀ s : State,
    (BlockInvariant s → ∀ f, step s ≠ .fault f) ∧
    (∀ f, step s = .fault f ↔
      ∃ g k j, s.tx = .busy g k j ∧ (segmentsAt g k).length ≤ j ∧ ∀ cfg rest, s.inbox ≠ .restart cfg :: rest) ∧
    (∀ r, step s = .refused r ↔ s.tx = .idle ∧ ∃ req rest,
      (s.inbox = .operation req :: rest ∨ s.inbox = .stepwise req :: rest ∨
        ∃ n cfg, s.inbox = .restartInOperation req n cfg :: rest) ∧
      ((∃ bytes, req = .frame bytes ∧ (bytes.length ≠ 7 ∨ bytes[0]? ≠ some 0xA7#8) ∧ r = .notAFrame) ∨
       (∃ b1 b2 b3 b4 b5 b6 : Byte, req = .frame [0xA7#8, b1, b2, b3, b4, b5, b6] ∧
         b1.extractLsb' 4 4 ∉ [0x2#4, 0x1#4, 0x4#4, 0x8#4] ∧ r = .reservedCommandNibble (b1.extractLsb' 4 4)) ∨
       (∃ args, (req = .select 0x03#8 args ∧ 2 ^ s.codeWidth ≤ args.dflt ∨
           req = .select 0x04#8 args ∧ ∃ sd ∈ args.defaults, 2 ^ s.codeWidth ≤ sd.2) ∧ r = .operandOutsideType)))

/-- R149, R56, R250: a restart that falls before store call n of `RESET_ALL` takes effect, in the boot sequence or invoked
by a host: the slots whose commit (call 2i + 1 of slot i) came before hold their defaults, the others are unchanged, and
all else is as after a restart. A boot sequence that resets nothing leaves the store. Log 16, as in
`CrashWindowsLeaveTheCommittedCounter`. -/
def Obligations.CutResetKeepsTheSlotsBeforeTheCut : Prop :=
  ∀ (n : Nat) (cfg : Configuration) (rest : List Event) (s : State), s.tx = .idle → s.staged = [] →
    (s.inbox = .restartInBoot n cfg :: rest →
      step s = .next { s with
        inbox := rest, config := cfg, phase := .startup, line := .low, tx := .idle, trace := [], errlog := [],
        result := none, burstResult := none, store := 
          if s.phase = .startup ∧ configCheck s.codeWidth s.config = none ∧ s.config.resetReq = true then
            s.store.writeAll ((s.config.profiles.map fun p => (p.slot, p.defaultCode)).take (n / 2))
          else s.store }) ∧
    (∀ args, s.inbox = .restartInOperation (.select 0x04#8 args) n cfg :: rest →
      s.phase = .startup → s.config.resetReq = true → (∀ sd ∈ args.defaults, sd.2 < 2 ^ s.codeWidth) →
      step s = .next { s with
        inbox := rest, config := cfg, phase := .startup, line := .low, tx := .idle, trace := [], errlog := [],
        result := none, burstResult := none, store := s.store.writeAll (args.defaults.take (n / 2)) })

/-- R257, R146: once a burst of code c has begun, no later command of that counter carries c, whether the burst ends, is
cut by a restart, or never emitted a segment: every later take, by `TAKE_AND_ADVANCE`, `SEND_COMMAND` or a letter, under
this configuration or a later one, returns a larger code, as long as no move starts in STARTUP with `RESET_REQ = 1`. -/
def Obligations.CodeOnTheLineIsNeverTakenAgain : Prop :=
  ∀ (g : Frame) (k : Fin 3) (j c : Nat) (s : State),
    BlockInvariant s → s.tx = .busy g k j → s.burstResult = some (.code c) →
    ∃ p ∈ s.config.profiles, ∃ cmd, g = buildFrame (BitVec.ofNat 24 p.id) cmd (BitVec.ofNat 16 c) ∧
      ∀ (n d r c' : Nat) (cmd' : Command) (q : Profile) (i : Instr) (t u : State), RunWithoutReset n s t →
        (i = .takeAndAdvance p.slot d ∨
         t.config.profiles[r]? = some q ∧ q.slot = p.slot ∧
           i ∈ [Instr.sendCommand r cmd', Instr.sendU r, Instr.sendS r, Instr.sendD r, Instr.sendP r]) →
        exec i t = .next u → u.result = some (.code c') → c < c'
end

