-- ==== Sys2Proof/Laws/State.lean ====
section
/-! SUPPORT. One lemma per field of State per named update, true by definition, so that no proof unfolds a record update. -/

namespace Sys2Proof.Machine

variable (s : State)

/-! ## raise -/

@[simp] theorem raise_codeWidth (e : ErrorRecord) : (s.raise e).codeWidth = s.codeWidth := rfl
@[simp] theorem raise_config (e : ErrorRecord) : (s.raise e).config = s.config := rfl
@[simp] theorem raise_phase (e : ErrorRecord) : (s.raise e).phase = s.phase := rfl
@[simp] theorem raise_store (e : ErrorRecord) : (s.raise e).store = s.store := rfl
@[simp] theorem raise_staged (e : ErrorRecord) : (s.raise e).staged = [] := rfl
@[simp] theorem raise_line (e : ErrorRecord) : (s.raise e).line = s.line := rfl
@[simp] theorem raise_tx (e : ErrorRecord) : (s.raise e).tx = s.tx := rfl
@[simp] theorem raise_trace (e : ErrorRecord) : (s.raise e).trace = s.trace := rfl
@[simp] theorem raise_errlog (e : ErrorRecord) : (s.raise e).errlog = s.errlog ++ [e] := rfl
@[simp] theorem raise_result (e : ErrorRecord) : (s.raise e).result = some (.error e) := rfl
@[simp] theorem raise_burstResult (e : ErrorRecord) : (s.raise e).burstResult = s.burstResult := rfl
@[simp] theorem raise_inbox (e : ErrorRecord) : (s.raise e).inbox = s.inbox := rfl
@[simp] theorem raise_draws (e : ErrorRecord) : (s.raise e).draws = s.draws := rfl
@[simp] theorem raise_drawCount (e : ErrorRecord) : (s.raise e).drawCount = s.drawCount := rfl

/-! ## returns -/

@[simp] theorem returns_codeWidth (v : Result) : (s.returns v).codeWidth = s.codeWidth := rfl
@[simp] theorem returns_config (v : Result) : (s.returns v).config = s.config := rfl
@[simp] theorem returns_phase (v : Result) : (s.returns v).phase = s.phase := rfl
@[simp] theorem returns_store (v : Result) : (s.returns v).store = s.store := rfl
@[simp] theorem returns_staged (v : Result) : (s.returns v).staged = s.staged := rfl
@[simp] theorem returns_line (v : Result) : (s.returns v).line = s.line := rfl
@[simp] theorem returns_tx (v : Result) : (s.returns v).tx = s.tx := rfl
@[simp] theorem returns_trace (v : Result) : (s.returns v).trace = s.trace := rfl
@[simp] theorem returns_errlog (v : Result) : (s.returns v).errlog = s.errlog := rfl
@[simp] theorem returns_result (v : Result) : (s.returns v).result = some v := rfl
@[simp] theorem returns_burstResult (v : Result) : (s.returns v).burstResult = s.burstResult := rfl
@[simp] theorem returns_inbox (v : Result) : (s.returns v).inbox = s.inbox := rfl
@[simp] theorem returns_draws (v : Result) : (s.returns v).draws = s.draws := rfl
@[simp] theorem returns_drawCount (v : Result) : (s.returns v).drawCount = s.drawCount := rfl

/-! ## afterDraws -/

@[simp] theorem afterDraws_codeWidth (n : Nat) : (s.afterDraws n).codeWidth = s.codeWidth := rfl
@[simp] theorem afterDraws_config (n : Nat) : (s.afterDraws n).config = s.config := rfl
@[simp] theorem afterDraws_phase (n : Nat) : (s.afterDraws n).phase = s.phase := rfl
@[simp] theorem afterDraws_store (n : Nat) : (s.afterDraws n).store = s.store := rfl
@[simp] theorem afterDraws_staged (n : Nat) : (s.afterDraws n).staged = s.staged := rfl
@[simp] theorem afterDraws_line (n : Nat) : (s.afterDraws n).line = s.line := rfl
@[simp] theorem afterDraws_tx (n : Nat) : (s.afterDraws n).tx = s.tx := rfl
@[simp] theorem afterDraws_trace (n : Nat) : (s.afterDraws n).trace = s.trace := rfl
@[simp] theorem afterDraws_errlog (n : Nat) : (s.afterDraws n).errlog = s.errlog := rfl
@[simp] theorem afterDraws_result (n : Nat) : (s.afterDraws n).result = s.result := rfl
@[simp] theorem afterDraws_burstResult (n : Nat) : (s.afterDraws n).burstResult = s.burstResult := rfl
@[simp] theorem afterDraws_inbox (n : Nat) : (s.afterDraws n).inbox = s.inbox := rfl
@[simp] theorem afterDraws_draws (n : Nat) : (s.afterDraws n).draws = s.draws.drop n := rfl
@[simp] theorem afterDraws_drawCount (n : Nat) : (s.afterDraws n).drawCount = s.drawCount + n := rfl

/-! ## stageWrite -/

@[simp] theorem stageWrite_codeWidth (a : Slot) (v : Nat) : (s.stageWrite a v).codeWidth = s.codeWidth := rfl
@[simp] theorem stageWrite_config (a : Slot) (v : Nat) : (s.stageWrite a v).config = s.config := rfl
@[simp] theorem stageWrite_phase (a : Slot) (v : Nat) : (s.stageWrite a v).phase = s.phase := rfl
@[simp] theorem stageWrite_store (a : Slot) (v : Nat) : (s.stageWrite a v).store = s.store := rfl
@[simp] theorem stageWrite_staged (a : Slot) (v : Nat) : (s.stageWrite a v).staged = s.staged ++ [(a, v)] := rfl
@[simp] theorem stageWrite_line (a : Slot) (v : Nat) : (s.stageWrite a v).line = s.line := rfl
@[simp] theorem stageWrite_tx (a : Slot) (v : Nat) : (s.stageWrite a v).tx = s.tx := rfl
@[simp] theorem stageWrite_trace (a : Slot) (v : Nat) : (s.stageWrite a v).trace = s.trace := rfl
@[simp] theorem stageWrite_errlog (a : Slot) (v : Nat) : (s.stageWrite a v).errlog = s.errlog := rfl
@[simp] theorem stageWrite_result (a : Slot) (v : Nat) : (s.stageWrite a v).result = s.result := rfl
@[simp] theorem stageWrite_burstResult (a : Slot) (v : Nat) : (s.stageWrite a v).burstResult = s.burstResult := rfl
@[simp] theorem stageWrite_inbox (a : Slot) (v : Nat) : (s.stageWrite a v).inbox = s.inbox := rfl
@[simp] theorem stageWrite_draws (a : Slot) (v : Nat) : (s.stageWrite a v).draws = s.draws := rfl
@[simp] theorem stageWrite_drawCount (a : Slot) (v : Nat) : (s.stageWrite a v).drawCount = s.drawCount := rfl

/-! ## discardStaged -/

@[simp] theorem discardStaged_codeWidth : (s.discardStaged).codeWidth = s.codeWidth := rfl
@[simp] theorem discardStaged_config : (s.discardStaged).config = s.config := rfl
@[simp] theorem discardStaged_phase : (s.discardStaged).phase = s.phase := rfl
@[simp] theorem discardStaged_store : (s.discardStaged).store = s.store := rfl
@[simp] theorem discardStaged_staged : (s.discardStaged).staged = [] := rfl
@[simp] theorem discardStaged_line : (s.discardStaged).line = s.line := rfl
@[simp] theorem discardStaged_tx : (s.discardStaged).tx = s.tx := rfl
@[simp] theorem discardStaged_trace : (s.discardStaged).trace = s.trace := rfl
@[simp] theorem discardStaged_errlog : (s.discardStaged).errlog = s.errlog := rfl
@[simp] theorem discardStaged_result : (s.discardStaged).result = s.result := rfl
@[simp] theorem discardStaged_burstResult : (s.discardStaged).burstResult = s.burstResult := rfl
@[simp] theorem discardStaged_inbox : (s.discardStaged).inbox = s.inbox := rfl
@[simp] theorem discardStaged_draws : (s.discardStaged).draws = s.draws := rfl
@[simp] theorem discardStaged_drawCount : (s.discardStaged).drawCount = s.drawCount := rfl

/-! ## commitTo -/

@[simp] theorem commitTo_codeWidth (m : Memory) : (s.commitTo m).codeWidth = s.codeWidth := rfl
@[simp] theorem commitTo_config (m : Memory) : (s.commitTo m).config = s.config := rfl
@[simp] theorem commitTo_phase (m : Memory) : (s.commitTo m).phase = s.phase := rfl
@[simp] theorem commitTo_store (m : Memory) : (s.commitTo m).store = m := rfl
@[simp] theorem commitTo_staged (m : Memory) : (s.commitTo m).staged = [] := rfl
@[simp] theorem commitTo_line (m : Memory) : (s.commitTo m).line = s.line := rfl
@[simp] theorem commitTo_tx (m : Memory) : (s.commitTo m).tx = s.tx := rfl
@[simp] theorem commitTo_trace (m : Memory) : (s.commitTo m).trace = s.trace := rfl
@[simp] theorem commitTo_errlog (m : Memory) : (s.commitTo m).errlog = s.errlog := rfl
@[simp] theorem commitTo_result (m : Memory) : (s.commitTo m).result = s.result := rfl
@[simp] theorem commitTo_burstResult (m : Memory) : (s.commitTo m).burstResult = s.burstResult := rfl
@[simp] theorem commitTo_inbox (m : Memory) : (s.commitTo m).inbox = s.inbox := rfl
@[simp] theorem commitTo_draws (m : Memory) : (s.commitTo m).draws = s.draws := rfl
@[simp] theorem commitTo_drawCount (m : Memory) : (s.commitTo m).drawCount = s.drawCount := rfl

/-! ## emit -/

@[simp] theorem emit_codeWidth (seg : Segment) : (emit seg s).codeWidth = s.codeWidth := rfl
@[simp] theorem emit_config (seg : Segment) : (emit seg s).config = s.config := rfl
@[simp] theorem emit_phase (seg : Segment) : (emit seg s).phase = s.phase := rfl
@[simp] theorem emit_store (seg : Segment) : (emit seg s).store = s.store := rfl
@[simp] theorem emit_staged (seg : Segment) : (emit seg s).staged = s.staged := rfl
@[simp] theorem emit_line (seg : Segment) : (emit seg s).line = seg.level := rfl
@[simp] theorem emit_tx (seg : Segment) : (emit seg s).tx = s.tx := rfl
@[simp] theorem emit_trace (seg : Segment) : (emit seg s).trace = s.trace ++ [seg] := rfl
@[simp] theorem emit_errlog (seg : Segment) : (emit seg s).errlog = s.errlog := rfl
@[simp] theorem emit_result (seg : Segment) : (emit seg s).result = s.result := rfl
@[simp] theorem emit_burstResult (seg : Segment) : (emit seg s).burstResult = s.burstResult := rfl
@[simp] theorem emit_inbox (seg : Segment) : (emit seg s).inbox = s.inbox := rfl
@[simp] theorem emit_draws (seg : Segment) : (emit seg s).draws = s.draws := rfl
@[simp] theorem emit_drawCount (seg : Segment) : (emit seg s).drawCount = s.drawCount := rfl

/-! ## restart -/

@[simp] theorem restart_codeWidth (cfg : Configuration) : (restart cfg s).codeWidth = s.codeWidth := rfl
@[simp] theorem restart_config (cfg : Configuration) : (restart cfg s).config = cfg := rfl
@[simp] theorem restart_phase (cfg : Configuration) : (restart cfg s).phase = .startup := rfl
@[simp] theorem restart_store (cfg : Configuration) : (restart cfg s).store = s.store := rfl
@[simp] theorem restart_staged (cfg : Configuration) : (restart cfg s).staged = [] := rfl
@[simp] theorem restart_line (cfg : Configuration) : (restart cfg s).line = .low := rfl
@[simp] theorem restart_tx (cfg : Configuration) : (restart cfg s).tx = .idle := rfl
@[simp] theorem restart_trace (cfg : Configuration) : (restart cfg s).trace = [] := rfl
@[simp] theorem restart_errlog (cfg : Configuration) : (restart cfg s).errlog = [] := rfl
@[simp] theorem restart_result (cfg : Configuration) : (restart cfg s).result = none := rfl
@[simp] theorem restart_burstResult (cfg : Configuration) : (restart cfg s).burstResult = none := rfl
@[simp] theorem restart_inbox (cfg : Configuration) : (restart cfg s).inbox = s.inbox := rfl
@[simp] theorem restart_draws (cfg : Configuration) : (restart cfg s).draws = s.draws := rfl
@[simp] theorem restart_drawCount (cfg : Configuration) : (restart cfg s).drawCount = s.drawCount := rfl

/-! ## endBurst -/

@[simp] theorem endBurst_codeWidth : (endBurst s).codeWidth = s.codeWidth := rfl
@[simp] theorem endBurst_config : (endBurst s).config = s.config := rfl
@[simp] theorem endBurst_phase : (endBurst s).phase = s.phase := rfl
@[simp] theorem endBurst_store : (endBurst s).store = s.store := rfl
@[simp] theorem endBurst_staged : (endBurst s).staged = s.staged := rfl
@[simp] theorem endBurst_line : (endBurst s).line = s.line := rfl
@[simp] theorem endBurst_tx : (endBurst s).tx = .idle := rfl
@[simp] theorem endBurst_trace : (endBurst s).trace = s.trace := rfl
@[simp] theorem endBurst_errlog : (endBurst s).errlog = s.errlog := rfl
@[simp] theorem endBurst_result : (endBurst s).result = s.burstResult := rfl
@[simp] theorem endBurst_burstResult : (endBurst s).burstResult = none := rfl
@[simp] theorem endBurst_inbox : (endBurst s).inbox = s.inbox := rfl
@[simp] theorem endBurst_draws : (endBurst s).draws = s.draws := rfl
@[simp] theorem endBurst_drawCount : (endBurst s).drawCount = s.drawCount := rfl

/-! ## haltWith -/

@[simp] theorem haltWith_codeWidth (e : ErrorRecord) : (haltWith e s).codeWidth = s.codeWidth := rfl
@[simp] theorem haltWith_config (e : ErrorRecord) : (haltWith e s).config = s.config := rfl
@[simp] theorem haltWith_phase (e : ErrorRecord) : (haltWith e s).phase = .halted := rfl
@[simp] theorem haltWith_store (e : ErrorRecord) : (haltWith e s).store = s.store := rfl
@[simp] theorem haltWith_staged (e : ErrorRecord) : (haltWith e s).staged = [] := rfl
@[simp] theorem haltWith_line (e : ErrorRecord) : (haltWith e s).line = s.line := rfl
@[simp] theorem haltWith_tx (e : ErrorRecord) : (haltWith e s).tx = s.tx := rfl
@[simp] theorem haltWith_trace (e : ErrorRecord) : (haltWith e s).trace = s.trace := rfl
@[simp] theorem haltWith_errlog (e : ErrorRecord) : (haltWith e s).errlog = s.errlog ++ [e] := rfl
@[simp] theorem haltWith_result (e : ErrorRecord) : (haltWith e s).result = some (.error e) := rfl
@[simp] theorem haltWith_burstResult (e : ErrorRecord) : (haltWith e s).burstResult = s.burstResult := rfl
@[simp] theorem haltWith_inbox (e : ErrorRecord) : (haltWith e s).inbox = s.inbox := rfl
@[simp] theorem haltWith_draws (e : ErrorRecord) : (haltWith e s).draws = s.draws := rfl
@[simp] theorem haltWith_drawCount (e : ErrorRecord) : (haltWith e s).drawCount = s.drawCount := rfl

end Sys2Proof.Machine
end

