-- ==== Sys2Proof/Laws/Ops.lean ====
section
/-! SUPPORT. What the shared operations can do: the store in canonical form, the backend's primitives, the line. -/

namespace Sys2Proof.Machine

/-! ## The store -/

@[simp] theorem Memory.read_nil (a : Slot) : Memory.read [] a = .absent := rfl

theorem Memory.read_write (m : Memory) (a b : Slot) (v : Nat) :
    (m.write a v).read b = if b = a then .value v else m.read b := by
  induction m with
  | nil => simp [Memory.write, Memory.read]
  | cons h t ih =>
    obtain ⟨k, w⟩ := h
    simp only [Memory.write]
    split
    · simp [Memory.read]
    · split
      · rename_i h; subst h; simp only [Memory.read]; split <;> simp_all
      · rename_i h
        simp only [Memory.read, ih]
        by_cases hb : b = k
        · simp [hb, Ne.symm h]
        · simp [hb]

@[simp] theorem Memory.read_write_same (m : Memory) (a : Slot) (v : Nat) : (m.write a v).read a = .value v := by
  simp [Memory.read_write]

theorem Memory.read_write_other (m : Memory) {a b : Slot} (v : Nat) (h : b ≠ a) :
    (m.write a v).read b = m.read b := by
  simp [Memory.read_write, h]

/-- A later write to a slot replaces an earlier one as if the earlier had not been. -/
theorem Memory.write_write (m : Memory) (a : Slot) (v w : Nat) : (m.write a v).write a w = m.write a w := by
  induction m with
  | nil => simp [Memory.write]
  | cons h t ih =>
    obtain ⟨k, x⟩ := h
    by_cases h1 : a < k
    · simp [Memory.write, h1]
    · by_cases h2 : a = k
      · simp [Memory.write, h2]
      · simp [Memory.write, h1, h2, ih]

theorem Memory.wf_cons_write (k x : Nat) (t : Memory) (a : Nat) (v : Nat) (hk : k < a)
    (h : Memory.wf ((k, x) :: t) = true) (ih : (Memory.write t a v).wf = true) :
    Memory.wf ((k, x) :: Memory.write t a v) = true := by
  cases t with
  | nil => simp [Memory.write, Memory.wf, hk]
  | cons h2 t2 =>
    obtain ⟨k2, x2⟩ := h2
    simp only [Memory.wf, Bool.and_eq_true, decide_eq_true_eq] at h
    simp only [Memory.write] at ih ⊢
    split
    · rename_i h1; simp [Memory.wf, hk, h1, h.2]
    · rename_i h1
      rw [if_neg h1] at ih
      split
      · rename_i h3; rw [if_pos h3] at ih; rw [Memory.wf, ih]; simp [hk]
      · rename_i h3; rw [if_neg h3] at ih; rw [Memory.wf, ih]; simp [h.1]

/-- A write keeps the canonical form. -/
theorem Memory.write_wf (m : Memory) (a : Slot) (v : Nat) (h : m.wf = true) : (m.write a v).wf = true := by
  induction m with
  | nil => simp [Memory.write, Memory.wf]
  | cons hd t ih =>
    obtain ⟨k, x⟩ := hd
    have ht : Memory.wf t = true := by
      cases t with
      | nil => rfl
      | cons => simp only [Memory.wf, Bool.and_eq_true] at h; exact h.2
    simp only [Memory.write]
    split
    · rename_i h1; simp [Memory.wf, h1, h]
    · split
      · rename_i h1 h2
        subst h2
        cases t with
        | nil => rfl
        | cons => simpa [Memory.wf] using h
      · rename_i h1 h2
        exact Memory.wf_cons_write k x t a v (Nat.lt_of_le_of_ne (Nat.le_of_not_lt h1) (Ne.symm h2)) h (ih ht)

/-- A write of a value that fits keeps every value in range. -/
theorem Memory.write_fits (m : Memory) (a : Slot) (v cw : Nat) (h : m.fits cw = true) (hv : v < 2 ^ cw) :
    (m.write a v).fits cw = true := by
  induction m with
  | nil => simp [Memory.write, Memory.fits, hv]
  | cons hd t ih =>
    obtain ⟨k, x⟩ := hd
    simp only [Memory.fits, List.all_cons, Bool.and_eq_true, decide_eq_true_eq] at h ih ⊢
    simp only [Memory.write]
    split
    · simp [hv, h.1, h.2]
    · split
      · simp [hv, h.2]
      · simp only [List.all_cons, Bool.and_eq_true, decide_eq_true_eq]; exact ⟨h.1, ih h.2⟩

theorem Memory.fits_read (m : Memory) (cw : Nat) (a : Slot) (v : Nat) (h : m.fits cw = true)
    (hr : m.read a = .value v) : v < 2 ^ cw := by
  induction m with
  | nil => simp [Memory.read] at hr
  | cons hd t ih =>
    obtain ⟨k, x⟩ := hd
    simp only [Memory.fits, List.all_cons, Bool.and_eq_true, decide_eq_true_eq] at h
    simp only [Memory.read] at hr
    split at hr
    · cases hr; exact h.1
    · exact ih h.2 hr

@[simp] theorem Memory.writeAll_nil (m : Memory) : m.writeAll [] = m := rfl

@[simp] theorem Memory.writeAll_cons (m : Memory) (sd : Slot × Nat) (ws : List (Slot × Nat)) :
    m.writeAll (sd :: ws) = (m.write sd.1 sd.2).writeAll ws := rfl

/-- Several writes leave every slot they do not name. -/
theorem Memory.read_writeAll_other (ws : List (Slot × Nat)) (m : Memory) (a : Slot) (h : a ∉ ws.map Prod.fst) :
    (m.writeAll ws).read a = m.read a := by
  induction ws generalizing m with
  | nil => rfl
  | cons sd ws ih =>
    simp only [List.map_cons, List.mem_cons, not_or] at h
    rw [Memory.writeAll_cons, ih _ h.2, Memory.read_write_other _ _ h.1]

/-- Several writes to distinct slots leave each at its value. -/
theorem Memory.read_writeAll_mem (ws : List (Slot × Nat)) (m : Memory) (hn : (ws.map Prod.fst).Nodup) (sd : Slot × Nat)
    (h : sd ∈ ws) : (m.writeAll ws).read sd.1 = .value sd.2 := by
  induction ws generalizing m with
  | nil => simp at h
  | cons x ws ih =>
    simp only [List.map_cons, List.nodup_cons] at hn
    rw [Memory.writeAll_cons]
    rcases List.mem_cons.1 h with rfl | h
    · rw [Memory.read_writeAll_other _ _ _ hn.1, Memory.read_write_same]
    · exact ih _ hn.2 h

theorem Memory.writeAll_wf (ws : List (Slot × Nat)) (m : Memory) (h : m.wf = true) : (m.writeAll ws).wf = true := by
  induction ws generalizing m with
  | nil => exact h
  | cons sd ws ih => exact ih _ (Memory.write_wf m sd.1 sd.2 h)

theorem Memory.writeAll_fits (ws : List (Slot × Nat)) (m : Memory) (cw : Nat) (h : m.fits cw = true)
    (hw : ∀ sd ∈ ws, sd.2 < 2 ^ cw) : (m.writeAll ws).fits cw = true := by
  induction ws generalizing m with
  | nil => exact h
  | cons sd ws ih =>
    exact ih _ (Memory.write_fits m sd.1 sd.2 cw h (hw sd (by simp))) fun x hx => hw x (by simp [hx])

/-- The reset store is in canonical form. -/
theorem reset_store_wf : State.reset.store.wf = true := rfl

/-! ## Draws -/

theorem drawAt_afterDraws (s : State) (n i : Nat) : (s.afterDraws n).drawAt i = s.drawAt (n + i) := by
  simp only [State.drawAt, State.afterDraws, List.getD_eq_getElem?_getD, List.getElem?_drop, Nat.add_assoc]

@[simp] theorem drawAt_commitTo (s : State) (m : Memory) (i : Nat) : (s.commitTo m).drawAt i = s.drawAt i := rfl

@[simp] theorem drawAt_discardStaged (s : State) (i : Nat) : s.discardStaged.drawAt i = s.drawAt i := rfl

@[simp] theorem drawAt_stageWrite (s : State) (a : Slot) (v i : Nat) : (s.stageWrite a v).drawAt i = s.drawAt i := rfl

@[simp] theorem afterDraws_zero (s : State) : s.afterDraws 0 = s := by simp [State.afterDraws]

@[simp] theorem afterDraws_afterDraws (s : State) (n m : Nat) : (s.afterDraws n).afterDraws m = s.afterDraws (n + m) := by
  simp only [State.afterDraws, List.drop_drop, Nat.add_assoc]

@[simp] theorem commitTo_afterDraws (s : State) (m : Memory) (n : Nat) :
    (s.commitTo m).afterDraws n = (s.afterDraws n).commitTo m := rfl

@[simp] theorem stageWrite_afterDraws (s : State) (a : Slot) (v n : Nat) :
    (s.stageWrite a v).afterDraws n = (s.afterDraws n).stageWrite a v := rfl

@[simp] theorem stageWrite_commitTo (s : State) (a : Slot) (v : Nat) (m : Memory) :
    (s.stageWrite a v).commitTo m = s.commitTo m := rfl

@[simp] theorem stageWrite_discardStaged (s : State) (a : Slot) (v : Nat) :
    (s.stageWrite a v).discardStaged = s.discardStaged := rfl

@[simp] theorem commitTo_commitTo (s : State) (m m' : Memory) : (s.commitTo m).commitTo m' = s.commitTo m' := rfl

/-- With nothing staged, discarding what is staged changes nothing. -/
theorem discardStaged_eq (s : State) (h : s.staged = []) : s.discardStaged = s := by cases s; cases h; rfl

/-- With nothing staged, committing the cells as they are changes nothing. -/
theorem commitTo_self (s : State) (h : s.staged = []) : s.commitTo s.store = s := by cases s; cases h; rfl

/-! ## Statements in sequence -/

@[simp] theorem andThen_ok {α β : Type} (a : α) (s : State) (f : α → State → Res β) :
    (Res.ok a s).andThen f = f a s := rfl

@[simp] theorem andThen_err {α β : Type} (e : ErrorRecord) (s : State) (f : α → State → Res β) :
    (Res.err e s : Res α).andThen f = .err e s := rfl

@[simp] theorem finish_ok (v : Result) (s : State) : (Res.ok v s).finish = s.returns v := rfl

@[simp] theorem finish_err (e : ErrorRecord) (s : State) : (Res.err e s : Res Result).finish = s.raise e := rfl

theorem andThen_eq_ok {α β : Type} {r : Res α} {f : α → State → Res β} {b : β} {t : State}
    (h : r.andThen f = .ok b t) : ∃ a m, r = .ok a m ∧ f a m = .ok b t := by
  cases r with
  | ok a m => exact ⟨a, m, rfl, h⟩
  | err e m => cases h

/-! ## The backend's primitives: everything each can do -/

theorem memRead_cases (slot : Slot) (s : State) :
    (s.drawAt 0 = false ∧ memRead slot s = .ok (s.store.read slot) (s.afterDraws 1)) ∨
    (s.drawAt 0 = true ∧ memRead slot s = .err (.storageError .read slot) (s.afterDraws 1)) := by
  unfold memRead; cases h : s.drawAt 0 <;> simp

/-- A write and its commit with nothing staged before: both succeed and the slot holds the value, or the first failing
one leaves every cell (R55, R56). -/
theorem writeDurably_cases (slot : Slot) (v : Nat) (s : State) (hs : s.staged = []) :
    (s.drawAt 0 = false ∧ s.drawAt 1 = false ∧
      writeDurably slot v s = .ok () ((s.afterDraws 2).commitTo (s.store.write slot v))) ∨
    (s.drawAt 0 = true ∧ writeDurably slot v s = .err (.storageError .write slot) (s.afterDraws 1)) ∨
    (s.drawAt 0 = false ∧ s.drawAt 1 = true ∧
      writeDurably slot v s = .err (.storageError .commit slot) (s.afterDraws 2)) := by
  unfold writeDurably memWrite
  cases h0 : s.drawAt 0
  · simp only [Bool.false_eq_true, if_false, andThen_ok, memCommit, drawAt_stageWrite, drawAt_afterDraws, stageWrite_store,
      stageWrite_staged, afterDraws_staged, hs]
    cases h1 : s.drawAt (1 + 0)
    · exact .inl ⟨by trivial, by trivial, by simp⟩
    · exact .inr (.inr ⟨by trivial, by trivial, by simp [discardStaged_eq (s.afterDraws 2) hs]⟩)
  · exact .inr (.inl ⟨by trivial, by simp [discardStaged_eq (s.afterDraws 1) hs]⟩)

/-! ## The line -/

theorem emitAll_append (a b : List Segment) (s : State) : emitAll (a ++ b) s = emitAll b (emitAll a s) := by
  simp [emitAll, List.foldl_append]

/-- Several `Emit`s: the trace grows by the segments and the line ends at the last one's level. -/
theorem emitAll_eq (segs : List Segment) (s : State) :
    emitAll segs s
      = { s with line := (segs.getLast?.map Segment.level).getD s.line, trace := s.trace ++ segs } := by
  induction segs generalizing s with
  | nil => simp [emitAll]
  | cons a l ih =>
    have : emitAll (a :: l) s = emitAll l (emit a s) := rfl
    rw [this, ih]
    cases l with
    | nil => simp [emit]
    | cons b l' => simp [emit, List.getLast?_eq_some_getLast]

end Sys2Proof.Machine
end

