-- ==== Sys2Proof/Laws/Transmitter.lean ====
section
/-! SUPPORT. The burst: its length, its end, and what sending it does to the state. -/

namespace Sys2Proof.Machine

theorem length_bitSegments (b : Bool) : (bitSegments b).length = 2 := by cases b <;> rfl

theorem length_dataSegments (g : Frame) : (dataSegments g).length = 112 := by
  simp [dataSegments, List.length_flatMap, length_bitSegments]

theorem length_frameSegments (g : Frame) (first : Bool) :
    (frameSegments g first).length = if first then 121 else 129 := by
  cases first <;>
    simp [frameSegments, length_dataSegments, wakePart, wakeSegments, repeated, syncCount, hwSyncSegments,
      swSyncSegments, silenceSegments]

theorem length_segmentsAt (g : Frame) (k : Fin 3) : (segmentsAt g k).length = if k = 0 then 121 else 129 := by
  simp [segmentsAt, length_frameSegments]

/-- Every physical transmission ends with the silence (R172). -/
theorem getLast_frameSegments (g : Frame) (first : Bool) : (frameSegments g first).getLast? = some ⟨.low, 30415⟩ := by
  simp [frameSegments, silenceSegments]

/-- Sending a burst: the three transmissions are appended, the line ends LOW and `TX` idle (R174). -/
theorem transmit_eq (g : Frame) (s : State) :
    transmit g s = { s with line := .low, tx := .idle, trace := s.trace ++ burst g } := by
  simp [transmit, txFrame, emitAll_eq, getLast_frameSegments, burst]

end Sys2Proof.Machine
end

