-- ==== Sys2Proof/Laws/RollingCode.lean ====
section
/-! SUPPORT. Everything the rolling-code store's operations can do, said once (R141 to R144, R148). -/

namespace Sys2Proof.Machine

/-- The advance from a code c: c + 1 is committed and c returned, or an error leaves every cell (R141, R143, R144). -/
theorem advance_cases (slot : Slot) (c : Nat) (s : State) (hs : s.staged = []) :
    (c ≠ 2 ^ s.codeWidth - 1 ∧ s.drawAt 0 = false ∧ s.drawAt 1 = false ∧
      advance slot c s = .ok c ((s.afterDraws 2).commitTo (s.store.write slot (c + 1)))) ∨
    (c = 2 ^ s.codeWidth - 1 ∧ advance slot c s = .err (.counterExhausted slot c) s) ∨
    (c ≠ 2 ^ s.codeWidth - 1 ∧ s.drawAt 0 = true ∧
      advance slot c s = .err (.storageError .write slot) (s.afterDraws 1)) ∨
    (c ≠ 2 ^ s.codeWidth - 1 ∧ s.drawAt 0 = false ∧ s.drawAt 1 = true ∧
      advance slot c s = .err (.storageError .commit slot) (s.afterDraws 2)) := by
  unfold advance
  by_cases hc : c = 2 ^ s.codeWidth - 1
  · right; left; exact ⟨hc, if_pos hc⟩
  · rw [if_neg hc]
    rcases writeDurably_cases slot (c + 1) s hs with ⟨h0, h1, h⟩ | ⟨h0, h⟩ | ⟨h0, h1, h⟩ <;> rw [h]
    · exact .inl ⟨hc, h0, h1, rfl⟩
    · exact .inr (.inr (.inl ⟨hc, h0, rfl⟩))
    · exact .inr (.inr (.inr ⟨hc, h0, h1, rfl⟩))

/-- The code taken from an absent slot: the default is committed on its own (R142). -/
theorem takenCode_absent_cases (slot : Slot) (d : Nat) (s : State) (hs : s.staged = []) :
    (s.drawAt 0 = false ∧ s.drawAt 1 = false ∧
      takenCode slot d .absent s = .ok d ((s.afterDraws 2).commitTo (s.store.write slot d))) ∨
    (s.drawAt 0 = true ∧ takenCode slot d .absent s = .err (.storageError .write slot) (s.afterDraws 1)) ∨
    (s.drawAt 0 = false ∧ s.drawAt 1 = true ∧
      takenCode slot d .absent s = .err (.storageError .commit slot) (s.afterDraws 2)) := by
  unfold takenCode
  rcases writeDurably_cases slot d s hs with ⟨h0, h1, h⟩ | ⟨h0, h⟩ | ⟨h0, h1, h⟩ <;> rw [h]
  · exact .inl ⟨h0, h1, rfl⟩
  · exact .inr (.inl ⟨h0, rfl⟩)
  · exact .inr (.inr ⟨h0, h1, rfl⟩)

/-- A take on a slot that holds v is the read and then the advance from v. -/
theorem takeAndAdvance_value (slot : Slot) (d v : Nat) (s : State) (h0 : s.drawAt 0 = false)
    (hr : s.store.read slot = .value v) : takeAndAdvance slot d s = advance slot v (s.afterDraws 1) := by
  simp [takeAndAdvance, memRead, h0, hr, takenCode]

/-- A take on an absent slot is the read, the default's own commit, and then the advance from the default. -/
theorem takeAndAdvance_absent (slot : Slot) (d : Nat) (s : State) (h0 : s.drawAt 0 = false)
    (hr : s.store.read slot = .absent) :
    takeAndAdvance slot d s
      = (takenCode slot d .absent (s.afterDraws 1)).andThen fun c s => advance slot c s := by
  simp [takeAndAdvance, memRead, h0, hr]

/-- A take whose read fails. -/
theorem takeAndAdvance_readFails (slot : Slot) (d : Nat) (s : State) (h0 : s.drawAt 0 = true) :
    takeAndAdvance slot d s = .err (.storageError .read slot) (s.afterDraws 1) := by
  simp [takeAndAdvance, memRead, h0]

/-- A successful take: the code held, or the default of an absent slot, is returned, and its successor is committed. -/
theorem takeAndAdvance_ok {slot : Slot} {d c : Nat} {s t : State} (hs : s.staged = [])
    (h : takeAndAdvance slot d s = .ok c t) :
    ∃ n, t = (s.afterDraws n).commitTo (s.store.write slot (c + 1)) ∧ c ≠ 2 ^ s.codeWidth - 1 ∧
      (s.store.read slot = .value c ∨ s.store.read slot = .absent ∧ c = d) := by
  cases h0 : s.drawAt 0 with
  | true => rw [takeAndAdvance_readFails slot d s h0] at h; cases h
  | false =>
    cases hr : s.store.read slot with
    | value v =>
      rw [takeAndAdvance_value slot d v s h0 hr] at h
      rcases advance_cases slot v (s.afterDraws 1) hs with ⟨hd, _, _, ha⟩ | ⟨_, ha⟩ | ⟨_, _, ha⟩ | ⟨_, _, _, ha⟩ <;>
        rw [ha] at h <;> cases h
      exact ⟨3, by simp, hd, .inl rfl⟩
    | absent =>
      rw [takeAndAdvance_absent slot d s h0 hr] at h
      rcases takenCode_absent_cases slot d (s.afterDraws 1) hs with ⟨_, _, hw⟩ | ⟨_, hw⟩ | ⟨_, _, hw⟩ <;>
        rw [hw] at h <;> simp only [andThen_ok, andThen_err, reduceCtorEq] at h
      rcases advance_cases slot d (((s.afterDraws 1).afterDraws 2).commitTo (s.store.write slot d)) rfl with
        ⟨hd, _, _, ha⟩ | ⟨_, ha⟩ | ⟨_, _, ha⟩ | ⟨_, _, _, ha⟩ <;> rw [afterDraws_store, ha] at h <;> cases h
      exact ⟨5, by simp [Memory.write_write], hd, .inr ⟨rfl, rfl⟩⟩

/-- A failed take: a store or exhaustion error, and every cell as it was but for an absent slot that may hold its
default (R144). -/
theorem takeAndAdvance_err {slot : Slot} {d : Nat} {s t : State} {e : ErrorRecord} (hs : s.staged = [])
    (h : takeAndAdvance slot d s = .err e t) :
    ∃ n m, t = (s.afterDraws n).commitTo m ∧
      (m = s.store ∨ s.store.read slot = .absent ∧ m = s.store.write slot d) ∧
      ((∃ stage, e = .storageError stage slot) ∨ ∃ c, e = .counterExhausted slot c) := by
  have hk : ∀ n, s.afterDraws n = (s.afterDraws n).commitTo s.store := fun n => (commitTo_self (s.afterDraws n) hs).symm
  cases h0 : s.drawAt 0 with
  | true =>
    rw [takeAndAdvance_readFails slot d s h0] at h; cases h
    exact ⟨1, s.store, hk 1, .inl rfl, .inl ⟨_, rfl⟩⟩
  | false =>
    cases hr : s.store.read slot with
    | value v =>
      rw [takeAndAdvance_value slot d v s h0 hr] at h
      rcases advance_cases slot v (s.afterDraws 1) hs with ⟨_, _, _, ha⟩ | ⟨_, ha⟩ | ⟨_, _, ha⟩ | ⟨_, _, _, ha⟩ <;>
        rw [ha] at h <;> cases h
      · exact ⟨1, s.store, hk 1, .inl rfl, .inr ⟨_, rfl⟩⟩
      · exact ⟨2, s.store, by rw [afterDraws_afterDraws]; exact hk 2, .inl rfl, .inl ⟨_, rfl⟩⟩
      · exact ⟨3, s.store, by rw [afterDraws_afterDraws]; exact hk 3, .inl rfl, .inl ⟨_, rfl⟩⟩
    | absent =>
      rw [takeAndAdvance_absent slot d s h0 hr] at h
      rcases takenCode_absent_cases slot d (s.afterDraws 1) hs with ⟨_, _, hw⟩ | ⟨_, hw⟩ | ⟨_, _, hw⟩ <;> rw [hw] at h
      · rw [andThen_ok] at h
        rcases advance_cases slot d (((s.afterDraws 1).afterDraws 2).commitTo (s.store.write slot d)) rfl with
          ⟨_, _, _, ha⟩ | ⟨_, ha⟩ | ⟨_, _, ha⟩ | ⟨_, _, _, ha⟩ <;> rw [afterDraws_store, ha] at h <;> cases h
        · exact ⟨3, _, by simp, .inr ⟨rfl, rfl⟩, .inr ⟨_, rfl⟩⟩
        · exact ⟨4, _, by simp, .inr ⟨rfl, rfl⟩, .inl ⟨_, rfl⟩⟩
        · exact ⟨5, _, by simp, .inr ⟨rfl, rfl⟩, .inl ⟨_, rfl⟩⟩
      · cases h
        exact ⟨2, s.store, by rw [afterDraws_afterDraws]; exact hk 2, .inl rfl, .inl ⟨_, rfl⟩⟩
      · cases h
        exact ⟨3, s.store, by rw [afterDraws_afterDraws]; exact hk 3, .inl rfl, .inl ⟨_, rfl⟩⟩

/-- `RESET_ALL`'s writes either all happen, or stop at the first failing call with the writes before it committed (R148,
R149). -/
theorem resetEach_cases (l : List (Slot × Nat)) (s : State) (hs : s.staged = []) :
    (s.callsSucceed (2 * l.length) ∧
      resetEach l s = .ok () ((s.afterDraws (2 * l.length)).commitTo (s.store.writeAll l))) ∨
    (∃ before slot d after stage n, l = before ++ (slot, d) :: after ∧
      (n = 2 * before.length ∧ stage = .write ∨ n = 2 * before.length + 1 ∧ stage = .commit) ∧
      s.callsSucceed n ∧ s.drawAt n = true ∧
      resetEach l s = .err (.storageError stage slot)
        ((s.afterDraws (n + 1)).commitTo (s.store.writeAll before))) := by
  induction l generalizing s with
  | nil =>
    left
    exact ⟨by intro i hi; simp at hi, congrArg (Res.ok ()) (by simpa using (commitTo_self s hs).symm)⟩
  | cons x l ih =>
    obtain ⟨slot, d⟩ := x
    unfold resetEach
    rcases writeDurably_cases slot d s hs with ⟨h0, h1, h⟩ | ⟨h0, h⟩ | ⟨h0, h1, h⟩ <;> rw [h]
    · rw [andThen_ok]
      have hcs : ∀ n, ((s.afterDraws 2).commitTo (s.store.write slot d)).callsSucceed n → s.callsSucceed (n + 2) := by
        intro n hn i hi
        match i with
        | 0 => exact h0
        | 1 => exact h1
        | i + 2 => have := hn i (by omega); rwa [drawAt_commitTo, drawAt_afterDraws, Nat.add_comm] at this
      rcases ih ((s.afterDraws 2).commitTo (s.store.write slot d)) rfl with
        ⟨hc, he⟩ | ⟨b, sl, dd, a, st, n, hl, hn, hc, hf, he⟩
      · left
        refine ⟨?_, ?_⟩
        · have := hcs _ hc
          rwa [show 2 * l.length + 2 = 2 * ((slot, d) :: l).length from by simp; omega] at this
        · rw [he]; simp [Nat.mul_add, Nat.add_comm]
      · right
        refine ⟨(slot, d) :: b, sl, dd, a, st, n + 2, by simp [hl], ?_, hcs _ hc, ?_, ?_⟩
        · rcases hn with ⟨h, h'⟩ | ⟨h, h'⟩
          · left; exact ⟨by simp; omega, h'⟩
          · right; exact ⟨by simp; omega, h'⟩
        · rw [drawAt_commitTo, drawAt_afterDraws, Nat.add_comm] at hf; exact hf
        · rw [he]; simp [Nat.add_comm]; congr 2; omega
    · right
      exact ⟨[], slot, d, l, .write, 0, rfl, .inl ⟨rfl, rfl⟩, by intro i hi; omega, h0,
        congrArg (Res.err _) (commitTo_self (s.afterDraws 1) hs).symm⟩
    · right
      refine ⟨[], slot, d, l, .commit, 1, rfl, .inr ⟨rfl, rfl⟩, ?_, h1,
        congrArg (Res.err _) (commitTo_self (s.afterDraws 2) hs).symm⟩
      intro i hi
      obtain rfl : i = 0 := by omega
      exact h0

end Sys2Proof.Machine
end

