-- ==== Sys2Proof/Laws/Frame.lean ====
section
/-! SUPPORT. What the store part of an operation leaves alone: it changes the store, the staged writes and the draws, and
nothing else. -/

namespace Sys2Proof.Machine

/-- The state in which a statement ends, by either way. -/
def Res.state {α : Type} (r : Res α) : State :=
  match r with
  | .ok _ s => s
  | .err _ s => s

@[simp] theorem Res.state_ok {α : Type} (a : α) (s : State) : (Res.ok a s).state = s := rfl
@[simp] theorem Res.state_err {α : Type} (e : ErrorRecord) (s : State) : (Res.err e s : Res α).state = s := rfl

/-- `t` is `s` but for the store, the staged writes and the draws. -/
def StoreOnly (s t : State) : Prop :=
  t = { s with store := t.store, staged := t.staged, draws := t.draws, drawCount := t.drawCount }

namespace StoreOnly

variable {s t u : State}

theorem refl (s : State) : StoreOnly s s := rfl

theorem trans (h : StoreOnly s t) (h' : StoreOnly t u) : StoreOnly s u := by
  unfold StoreOnly at *; rw [h] at h'; exact h'

theorem codeWidth (h : StoreOnly s t) : t.codeWidth = s.codeWidth := by rw [h]
theorem config (h : StoreOnly s t) : t.config = s.config := by rw [h]
theorem phase (h : StoreOnly s t) : t.phase = s.phase := by rw [h]
theorem line (h : StoreOnly s t) : t.line = s.line := by rw [h]
theorem tx (h : StoreOnly s t) : t.tx = s.tx := by rw [h]
theorem trace (h : StoreOnly s t) : t.trace = s.trace := by rw [h]
theorem errlog (h : StoreOnly s t) : t.errlog = s.errlog := by rw [h]
theorem result (h : StoreOnly s t) : t.result = s.result := by rw [h]
theorem burstResult (h : StoreOnly s t) : t.burstResult = s.burstResult := by rw [h]
theorem inbox (h : StoreOnly s t) : t.inbox = s.inbox := by rw [h]

end StoreOnly

/-- A sequence of statements leaves alone what each of them does. -/
theorem StoreOnly.andThen {α β : Type} {s : State} {r : Res α} {f : α → State → Res β} (h : StoreOnly s r.state)
    (hf : ∀ a m, StoreOnly m (f a m).state) : StoreOnly s (r.andThen f).state := by
  cases r with
  | ok a m => exact h.trans (hf a m)
  | err e m => exact h

theorem memRead_storeOnly (slot : Slot) (s : State) : StoreOnly s (memRead slot s).state := by
  unfold memRead; split <;> rfl

theorem writeDurably_storeOnly (slot : Slot) (v : Nat) (s : State) : StoreOnly s (writeDurably slot v s).state :=
  StoreOnly.andThen (by unfold memWrite; split <;> rfl) fun _ m => by unfold memCommit; split <;> rfl

theorem takenCode_storeOnly (slot : Slot) (d : Nat) (cell : Cell) (s : State) :
    StoreOnly s (takenCode slot d cell s).state := by
  cases cell with
  | absent => exact (writeDurably_storeOnly slot d s).andThen fun _ m => .refl m
  | value v => exact .refl s

theorem advance_storeOnly (slot : Slot) (c : Nat) (s : State) : StoreOnly s (advance slot c s).state := by
  unfold advance
  split
  · exact .refl s
  · exact (writeDurably_storeOnly slot (c + 1) s).andThen fun _ m => .refl m

theorem takeAndAdvance_storeOnly (slot : Slot) (d : Nat) (s : State) : StoreOnly s (takeAndAdvance slot d s).state :=
  (memRead_storeOnly slot s).andThen fun cell m =>
    (takenCode_storeOnly slot d cell m).andThen fun c m => advance_storeOnly slot c m

theorem resetEach_storeOnly (l : List (Slot × Nat)) (s : State) : StoreOnly s (resetEach l s).state := by
  induction l generalizing s with
  | nil => exact .refl s
  | cons x l ih => exact (writeDurably_storeOnly x.1 x.2 s).andThen fun _ m => ih m

end Sys2Proof.Machine
end

