-- ==== Sys2Proof/Laws/Boot.lean ====
section
/-! SUPPORT. The searches of the configuration check, and everything the boot sequence can do. -/

namespace Sys2Proof.Machine

theorem firstIndex_eq_none {α : Type} (p : α → Bool) (l : List α) (i : Nat) :
    firstIndex p l i = none ↔ ∀ x ∈ l, p x = false := by
  induction l generalizing i with
  | nil => simp [firstIndex]
  | cons x l ih => simp only [firstIndex]; split <;> simp_all

/-- The first index found holds an element that satisfies the search, and no earlier one does. -/
theorem firstIndex_eq_some {α : Type} (p : α → Bool) (l : List α) (i j : Nat) (h : firstIndex p l i = some j) :
    ∃ n x, j = i + n ∧ l[n]? = some x ∧ p x = true ∧ ∀ m y, l[m]? = some y → p y = true → n ≤ m := by
  induction l generalizing i with
  | nil => simp [firstIndex] at h
  | cons x l ih =>
    simp only [firstIndex] at h
    split at h
    · cases h; exact ⟨0, x, by simp, by simp, by assumption, by intros; omega⟩
    · obtain ⟨n, y, h1, h2, h3, h4⟩ := ih _ h
      refine ⟨n + 1, y, by omega, by simpa using h2, h3, ?_⟩
      intro m z hm hz
      cases m with
      | zero => simp at hm; subst hm; simp_all
      | succ m => have := h4 m z (by simpa using hm) hz; omega

theorem firstPair_eq_none {α : Type} (q : α → α → Bool) (l : List α) (i : Nat) :
    firstPair q l i = none ↔ l.Pairwise fun x y => q x y = false := by
  induction l generalizing i with
  | nil => simp [firstPair]
  | cons x l ih =>
    simp only [firstPair, List.pairwise_cons]
    cases h : firstIndex (q x) l (i + 1) with
    | none => simpa [ih] using fun _ => (firstIndex_eq_none _ _ _).1 h
    | some j =>
      simp only [reduceCtorEq, false_iff, not_and]
      intro h2
      have := (firstIndex_eq_none (q x) l (i + 1)).2 h2
      simp_all

/-- The pair found is `same`, and it is the lowest: lowest first index, then lowest second. -/
theorem firstPair_eq_some {α : Type} (q : α → α → Bool) (l : List α) (i a b : Nat) (h : firstPair q l i = some (a, b)) :
    ∃ n m x y, a = i + n ∧ b = i + m ∧ n < m ∧ l[n]? = some x ∧ l[m]? = some y ∧ q x y = true ∧
      ∀ n' m' x' y', l[n']? = some x' → l[m']? = some y' → n' < m' → q x' y' = true →
        n < n' ∨ n = n' ∧ m ≤ m' := by
  induction l generalizing i with
  | nil => simp [firstPair] at h
  | cons x l ih =>
    simp only [firstPair] at h
    cases h1 : firstIndex (q x) l (i + 1) with
    | some j =>
      rw [h1] at h; cases h
      obtain ⟨n, y, e, h2, h3, h4⟩ := firstIndex_eq_some _ _ _ _ h1
      refine ⟨0, n + 1, x, y, by simp, by omega, by omega, by simp, by simpa using h2, h3, ?_⟩
      intro n' m' x' y' hn hm hlt hq
      cases n' with
      | succ n' => left; omega
      | zero =>
        right
        obtain ⟨m', rfl⟩ : ∃ k, m' = k + 1 := ⟨m' - 1, by omega⟩
        simp at hn hm; subst hn
        have := h4 m' y' hm hq; exact ⟨rfl, by omega⟩
    | none =>
      rw [h1] at h
      obtain ⟨n, m, x', y', e1, e2, hlt, h2, h3, h4, h5⟩ := ih _ h
      refine ⟨n + 1, m + 1, x', y', by omega, by omega, by omega, by simpa using h2, by simpa using h3, h4, ?_⟩
      intro n' m' x'' y'' hn hm hlt hq
      obtain ⟨m', rfl⟩ : ∃ k, m' = k + 1 := ⟨m' - 1, by omega⟩
      cases n' with
      | zero =>
        simp at hn hm; subst hn
        have := (firstIndex_eq_none _ _ _).1 h1 y'' (List.mem_of_getElem? hm); simp_all
      | succ n' => have := h5 n' m' x'' y'' (by simpa using hn) (by simpa using hm) (by omega) hq; omega

/-- Everything the boot sequence can do (R251). -/
theorem bootSequence_cases (s : State) :
    (∃ reason r1 r2, configCheck s.codeWidth s.config = some (reason, r1, r2) ∧
      bootSequence s = haltWith (.configError reason r1 r2) s) ∨
    (configCheck s.codeWidth s.config = none ∧ s.config.resetReq = false ∧ bootSequence s = { s with phase := .run }) ∨
    (configCheck s.codeWidth s.config = none ∧ s.config.resetReq = true ∧
      bootSequence s = finishBoot (resetEach (profileDefaults s.config) s)) := by
  unfold bootSequence
  cases h : configCheck s.codeWidth s.config with
  | some r => exact .inl ⟨r.1, r.2.1, r.2.2, rfl, rfl⟩
  | none =>
    cases hr : s.config.resetReq with
    | false => exact .inr (.inl ⟨by trivial, by trivial, rfl⟩)
    | true => exact .inr (.inr ⟨by trivial, by trivial, rfl⟩)

end Sys2Proof.Machine
end

