-- ==== Sys2Proof/Laws/PerInstr.lean ====
section
/-! SUPPORT. Statements made instruction by instruction. CarriesRowBits: the request that encodes an instruction carries,
in the byte its opcode-table row describes, the row's fixed bits (spec/opcode_table.json, match and mask). -/

namespace Sys2Proof.Laws

/-- The byte of a request that the opcode table describes: the selector, byte 1 of the frame, the payload's one byte. -/
def tableByte : Request → Byte
  | .select op _ => op
  | .frame bytes => bytes.getD 1 0#8
  | .payload _ bytes => bytes.getD 0 0#8

/-- The fixed bits of each row: mask and match. The reserved selector's row is a range. -/
def CarriesRowBits.Statement : Instr → Prop
  | .buildFrame rid cmd code => tableByte (encode (.buildFrame rid cmd code)) = 0x01#8
  | .currentCode slot => tableByte (encode (.currentCode slot)) = 0x02#8
  | .takeAndAdvance slot d => tableByte (encode (.takeAndAdvance slot d)) = 0x03#8
  | .resetAll l => tableByte (encode (.resetAll l)) = 0x04#8
  | .transmitBurst g => tableByte (encode (.transmitBurst g)) = 0x05#8
  | .sendCommand r cmd => tableByte (encode (.sendCommand r cmd)) = 0x06#8
  | .reservedSelector op => isReservedSelector op = true →
      tableByte (encode (.reservedSelector op)) = 0x00#8 ∨ 0x07#8 ≤ tableByte (encode (.reservedSelector op))
  | .up rid code => tableByte (encode (.up rid code)) &&& 0xF0#8 = 0x20#8
  | .stop rid code => tableByte (encode (.stop rid code)) &&& 0xF0#8 = 0x10#8
  | .down rid code => tableByte (encode (.down rid code)) &&& 0xF0#8 = 0x40#8
  | .prog rid code => tableByte (encode (.prog rid code)) &&& 0xF0#8 = 0x80#8
  | .sendU r => tableByte (encode (.sendU r)) = 0x75#8
  | .sendS r => tableByte (encode (.sendS r)) = 0x73#8
  | .sendD r => tableByte (encode (.sendD r)) = 0x64#8
  | .sendP r => tableByte (encode (.sendP r)) = 0x70#8

/-- OR-ing a nibble into a byte leaves its high nibble. -/
theorem or_nibble_and_high : ∀ (c : Nibble) (b : Byte), (b ||| c.setWidth 8) &&& 0xF0#8 = b &&& 0xF0#8 := by decide

theorem CarriesRowBits.buildFrame (rid : RemoteId) (cmd : Command) (code : CodeField) :
    CarriesRowBits.Statement (.buildFrame rid cmd code) := rfl

theorem CarriesRowBits.currentCode (slot : Slot) : CarriesRowBits.Statement (.currentCode slot) := rfl

theorem CarriesRowBits.takeAndAdvance (slot : Slot) (d : Nat) :
    CarriesRowBits.Statement (.takeAndAdvance slot d) := rfl

theorem CarriesRowBits.resetAll (l : List (Slot × Nat)) : CarriesRowBits.Statement (.resetAll l) := rfl

theorem CarriesRowBits.transmitBurst (g : Frame) : CarriesRowBits.Statement (.transmitBurst g) := rfl

theorem CarriesRowBits.sendCommand (r : Nat) (cmd : Command) : CarriesRowBits.Statement (.sendCommand r cmd) := rfl

theorem CarriesRowBits.reservedSelector (op : Byte) : CarriesRowBits.Statement (.reservedSelector op) := by
  intro h
  simp only [isReservedSelector, Bool.or_eq_true, decide_eq_true_eq] at h
  rcases h with h | h
  · exact .inl (BitVec.eq_of_toNat_eq h)
  · exact .inr (by simpa [BitVec.le_def, encode, tableByte] using h)

theorem CarriesRowBits.up (rid : RemoteId) (code : CodeField) : CarriesRowBits.Statement (.up rid code) :=
  or_nibble_and_high _ 0x20#8

theorem CarriesRowBits.stop (rid : RemoteId) (code : CodeField) : CarriesRowBits.Statement (.stop rid code) :=
  or_nibble_and_high _ 0x10#8

theorem CarriesRowBits.down (rid : RemoteId) (code : CodeField) : CarriesRowBits.Statement (.down rid code) :=
  or_nibble_and_high _ 0x40#8

theorem CarriesRowBits.prog (rid : RemoteId) (code : CodeField) : CarriesRowBits.Statement (.prog rid code) :=
  or_nibble_and_high _ 0x80#8

theorem CarriesRowBits.sendU (r : Nat) : CarriesRowBits.Statement (.sendU r) := rfl

theorem CarriesRowBits.sendS (r : Nat) : CarriesRowBits.Statement (.sendS r) := rfl

theorem CarriesRowBits.sendD (r : Nat) : CarriesRowBits.Statement (.sendD r) := rfl

theorem CarriesRowBits.sendP (r : Nat) : CarriesRowBits.Statement (.sendP r) := rfl

end Sys2Proof.Laws
end

