-- ==== Sys2Proof/Laws/Serve.lean ====
section
/-! SUPPORT. What one move can do, said once: which event it serves, the segment step, and what an operation that ends
with a burst does before its first `Emit`. -/

namespace Sys2Proof.Machine

/-! ## The block's next move -/

theorem step_of_idle_event {s : State} {e : Event} {rest : List Event} (ht : s.tx = .idle) (hi : s.inbox = e :: rest) :
    step s = handleEvent e { s with inbox := rest } := by
  have h : step s = idleMove s := by unfold step move; rw [ht]
  rw [h]; unfold idleMove; rw [hi]

theorem step_of_idle_empty {s : State} (ht : s.tx = .idle) (hi : s.inbox = []) : step s = .next (boot s) := by
  have h : step s = idleMove s := by unfold step move; rw [ht]
  rw [h]; unfold idleMove; rw [hi]

theorem step_of_busy {s : State} {g : Frame} {k : Fin 3} {j : Nat} (ht : s.tx = .busy g k j) :
    step s = burstMove g k j s := by
  unfold step move; rw [ht]

/-- While a burst runs and what waits is neither passing time nor a restart, a move is one segment (R179). -/
theorem step_of_busy_waiting {s : State} {g : Frame} {k : Fin 3} {j : Nat} (ht : s.tx = .busy g k j)
    (hw : ∀ e rest, s.inbox = e :: rest → e.waitsForBurst = true) : step s = segmentStep g k j s := by
  rw [step_of_busy ht]
  unfold burstMove
  cases hi : s.inbox with
  | nil => rfl
  | cons e rest => have := hw e rest hi; cases e <;> simp [Event.waitsForBurst] at this <;> rfl

/-- Everything a move can be. -/
theorem step_cases (s : State) :
    (s.tx = .idle ∧ s.inbox = [] ∧ step s = .next (boot s)) ∨
    (∃ e rest, s.tx = .idle ∧ s.inbox = e :: rest ∧ step s = handleEvent e { s with inbox := rest }) ∨
    (∃ g k j cfg rest, s.tx = .busy g k j ∧ s.inbox = .restart cfg :: rest ∧
      step s = .next (restart cfg { s with inbox := rest })) ∨
    (∃ g k j rest, s.tx = .busy g k j ∧ s.inbox = .tick :: rest ∧
      step s = segmentStep g k j { s with inbox := rest }) ∨
    (∃ g k j, s.tx = .busy g k j ∧ (∀ e rest, s.inbox = e :: rest → e.waitsForBurst = true) ∧
      step s = segmentStep g k j s) := by
  cases ht : s.tx with
  | idle =>
    cases hi : s.inbox with
    | nil => exact .inl ⟨by trivial, by trivial, step_of_idle_empty ht hi⟩
    | cons e rest =>
      exact .inr (.inl ⟨e, rest, by trivial, by trivial, ht ▸ step_of_idle_event ht hi⟩)
  | busy g k j =>
    right; right
    by_cases hw : ∀ e rest, s.inbox = e :: rest → e.waitsForBurst = true
    · exact .inr (.inr ⟨g, k, j, rfl, hw, step_of_busy_waiting ht hw⟩)
    · have hb := step_of_busy ht
      unfold burstMove at hb
      cases hi : s.inbox with
      | nil => rw [hi] at hw; simp at hw
      | cons e rest =>
        rw [hi] at hw hb
        cases e <;> simp [Event.waitsForBurst] at hw
        · exact .inr (.inl ⟨g, k, j, rest, rfl, rfl, ht ▸ hb⟩)
        · exact .inl ⟨g, k, j, _, rest, rfl, rfl, ht ▸ hb⟩

/-- Everything the segment step can do: one `Emit`, and where `TX` goes; or the fault of a position no rule gives. -/
theorem segmentStep_cases (g : Frame) (k : Fin 3) (j : Nat) (s : State) :
    (∃ seg, (segmentsAt g k)[j]? = some seg ∧ segmentStep g k j s = .next (advanceTx g k j (emit seg s))) ∨
    ((segmentsAt g k)[j]? = none ∧ segmentStep g k j s = .fault .txPositionOutsideBurst) := by
  unfold segmentStep
  cases h : (segmentsAt g k)[j]? with
  | some seg => exact .inl ⟨seg, rfl, rfl⟩
  | none => exact .inr ⟨rfl, rfl⟩

/-! ## Operations that end with a burst -/

/-- An operation that ends with a burst is its work before the first `Emit`, then the burst or the error. -/
theorem exec_of_burstWork {i : Instr} {s : State} {r : Res (Frame × Result)} (h : burstWork i s = some r) :
    exec i s = .next (finishBurst r) := by
  cases i <;> simp only [burstWork, Option.some.injEq, reduceCtorEq] at h <;> subst h <;> rfl

/-- What an admitted statement does is its body. -/
theorem ifAdmitted_of {α : Type} {op : Byte} {s : State} {body : State → Res α}
    (h : admits op s.phase s.config.resetReq = true) : ifAdmitted op s body = body s := if_pos h

theorem ifAdmitted_ok {α : Type} {op : Byte} {s t : State} {body : State → Res α} {a : α} (h : ifAdmitted op s body = .ok a t) :
    admits op s.phase s.config.resetReq = true ∧ body s = .ok a t := by
  unfold ifAdmitted at h
  split at h
  · exact ⟨by assumption, h⟩
  · cases h

/-- Everything `SEND_COMMAND` can do before its first `Emit` (R200, R230). -/
theorem prepareSend_cases (r : Nat) (cmd : Command) (s : State) :
    (s.phase ≠ .run ∧ prepareSend r cmd s = .err (.phaseError opSendCommand s.phase) s) ∨
    (s.phase = .run ∧ s.config.profiles[r]? = none ∧
      prepareSend r cmd s = .err (.malformedCommand (.remote r)) s) ∨
    (∃ p, s.phase = .run ∧ s.config.profiles[r]? = some p ∧ prepareSend r cmd s = prepareFor p cmd s) := by
  unfold prepareSend ifAdmitted
  by_cases hp : s.phase = .run
  · right
    rw [if_pos (by simp [admits, hp, opSendCommand, opBuildFrame, opCurrentCode, opResetAll])]
    cases hr : s.config.profiles[r]? with
    | none => exact .inl ⟨hp, rfl, by simp only [hr]⟩
    | some p => exact .inr ⟨p, hp, rfl, by simp only [hr]⟩
  · left
    rw [if_neg (by simp [admits, hp, opSendCommand, opBuildFrame, opCurrentCode, opResetAll])]
    exact ⟨hp, rfl⟩

theorem prepareFor_storeOnly (p : Profile) (cmd : Command) (s : State) : StoreOnly s (prepareFor p cmd s).state :=
  (takeAndAdvance_storeOnly p.slot p.defaultCode s).andThen fun _ m => .refl m

theorem prepareSend_storeOnly (r : Nat) (cmd : Command) (s : State) : StoreOnly s (prepareSend r cmd s).state := by
  rcases prepareSend_cases r cmd s with ⟨_, h⟩ | ⟨_, _, h⟩ | ⟨p, _, _, h⟩ <;> rw [h]
  · exact .refl s
  · exact .refl s
  · exact prepareFor_storeOnly p cmd s

end Sys2Proof.Machine
end

