-- ==== Sys2Proof/Laws/Waveform.lean ====
section
/-! SUPPORT. The small laws of durations, waveforms and merging, and of the start of a burst. -/

namespace Sys2Proof.Machine

@[simp] theorem totalUs_nil : totalUs [] = 0 := rfl
@[simp] theorem totalUs_cons (seg : Segment) (segs : List Segment) :
    totalUs (seg :: segs) = seg.duration + totalUs segs := by simp [totalUs]
@[simp] theorem totalUs_append (a b : List Segment) : totalUs (a ++ b) = totalUs a + totalUs b := by simp [totalUs]

@[simp] theorem waveform_nil : waveform [] = [] := rfl
@[simp] theorem waveform_cons (seg : Segment) (segs : List Segment) :
    waveform (seg :: segs) = List.replicate seg.duration seg.level ++ waveform segs := rfl
@[simp] theorem waveform_append (a b : List Segment) : waveform (a ++ b) = waveform a ++ waveform b := by simp [waveform]

@[simp] theorem mergeAdjacent_nil : mergeAdjacent [] = [] := rfl
theorem mergeAdjacent_cons (seg : Segment) (segs : List Segment) :
    mergeAdjacent (seg :: segs) = mergeInto seg (mergeAdjacent segs) := rfl

/-- The start of a burst is later by what passes and what is emitted since the start of another one. -/
theorem burstStartUs_succ (gap : Nat → Nat) (trace : List Segment) (n : Nat) :
    burstStartUs gap trace (n + 1) + totalUs (trace.take (segmentsPerBurst * n))
      = burstStartUs gap trace n + gap (n + 1) + totalUs (trace.take (segmentsPerBurst * (n + 1))) := by
  simp only [burstStartUs, List.range_succ (n := n + 1), List.map_append, List.sum_append, List.map_cons, List.map_nil,
    List.sum_cons, List.sum_nil]
  omega

end Sys2Proof.Machine
end

