-- ==== Sys2Proof/Tests/Slice0.lean ====
section
/-! SUPPORT. Tests on small states, one move each, with expected results from spec/95_test_vectors.md or written out from
the rules; and for every obligation with hypotheses a witness that meets them all (names `test_meets_…`). -/

namespace Sys2Proof.Tests

open Sys2Proof Sys2Proof.Machine

/-! ## Small states -/

/-- The profile `r0` of 95_test_vectors.md section 5. -/
def remote0 : Profile := { id := 0x184623, defaultCode := 0x0BB8, slot := 0, topicKey := [0x61#8], travelTimeMs := 0 }

/-- A second profile. -/
def remote1 : Profile := { id := 0xABCDEF, defaultCode := 0x10, slot := 1, topicKey := [0x62#8], travelTimeMs := 0 }

/-- A state in RUN with the profile `r0`. -/
def runState (store : Memory) (draws : List Bool) : State :=
  { State.reset with
    phase := .run, config := { profiles := [remote0], resetReq := false }, store := store, draws := draws }

/-- A state in STARTUP with `RESET_REQ = 1` and two profiles. -/
def resetState (store : Memory) (draws : List Bool) : State :=
  { State.reset with config := { profiles := [remote0, remote1], resetReq := true }, store := store, draws := draws }

/-- A state in STARTUP with the given profiles. -/
def bootState (profiles : List Profile) : State :=
  { State.reset with config := { profiles := profiles, resetReq := false } }

/-- `n` calls that succeed. -/
def pass (n : Nat) : List Bool := List.replicate n false

/-- Call `n` fails, those before it succeed. -/
def failAt (n : Nat) : List Bool := pass n ++ [true]

/-- What the next state says. -/
def after {α : Type} (o : Host.Outcome State Fault Refusal) (f : State → α) : Option α :=
  match o with
  | .next t => some (f t)
  | .fault _ => none
  | .refused _ => none

/-- The store and the result after one operation. -/
def storeAndResult (o : Host.Outcome State Fault Refusal) : Option (Memory × Option Result) :=
  after o fun t => (t.store, t.result)

/-- The canonical fixture's frame, W1. -/
def fixture : Frame := ⟨0xA7#8, 0x82#8, 0x82#8, 0x82#8, 0x9A#8, 0xDC#8, 0xFF#8⟩

/-- A profile with the given id, key, slot and default. -/
def prof (id : Nat) (key : Byte) (slot dflt : Nat) : Profile :=
  { id := id, defaultCode := dflt, slot := slot, topicKey := [key], travelTimeMs := 0 }

/-- A burst of the frame of code 5 has begun for `r0`: its successor is committed. -/
def busyState (k : Fin 3) (j : Nat) (inbox : List Event) : State :=
  { runState [(0, 6)] [] with
    tx := .busy (buildFrame 0x184623#24 .up 0x0005#16) k j, burstResult := some (.code 5), inbox := inbox }

/-! ## WellFormed: what each check refuses -/

theorem test_default_above_the_cell_is_ill_formed : (Instr.takeAndAdvance 0 0x10000).wellFormed 16 = false := by decide
theorem test_largest_default_is_well_formed : (Instr.takeAndAdvance 0 0xFFFF).wellFormed 16 = true := by decide
theorem test_listed_default_above_the_cell_is_ill_formed :
    (Instr.resetAll [(0, 5), (1, 0x10000)]).wellFormed 16 = false := by decide
theorem test_defined_selector_is_no_reserved_one :
    [0x01#8, 0x06#8].all (fun op => (Instr.reservedSelector op).wellFormed 16) = false := by decide

/-! ## Decoding: bytes written out from the spec -/

theorem test_decode_selectors :
    [0x01#8, 0x02#8, 0x03#8, 0x04#8, 0x05#8, 0x06#8].map (fun op => (decode (.select op zeroOperands)).toOption)
      = [some (.buildFrame 0#24 .up 0#16), some (.currentCode 0), some (.takeAndAdvance 0 0), some (.resetAll []),
         some (.transmitBurst zeroOperands.frame), some (.sendCommand 0 .up)] := by decide

theorem test_decode_reserved_selectors :
    [0x00#8, 0x07#8, 0x20#8, 0x73#8, 0xFF#8].map (fun op => (decode (.select op zeroOperands)).toOption)
      = [some (.reservedSelector 0x00#8), some (.reservedSelector 0x07#8), some (.reservedSelector 0x20#8),
         some (.reservedSelector 0x73#8), some (.reservedSelector 0xFF#8)] := by decide

/-- Checksummed frames of V-C1. -/
theorem test_decode_frames :
    [[0xA7#8, 0x2C#8, 0x12#8, 0x34#8, 0x12#8, 0x34#8, 0x56#8], [0xA7#8, 0x1D#8, 0x00#8, 0xFF#8, 0xAB#8, 0xCD#8, 0xEF#8],
     [0xA7#8, 0x49#8, 0x80#8, 0x00#8, 0x80#8, 0x00#8, 0x00#8], [0xA7#8, 0x85#8, 0x01#8, 0x00#8, 0x00#8, 0x00#8, 0x01#8]].map
        (fun f => (decode (.frame f)).toOption)
      = [some (.up 0x123456#24 0x1234#16), some (.stop 0xABCDEF#24 0x00FF#16), some (.down 0x800000#24 0x8000#16),
         some (.prog 0x000001#24 0x0100#16)] := by decide

theorem test_decode_letters :
    [0x75#8, 0x73#8, 0x64#8, 0x70#8].map (fun b => (decode (.payload 9 [b])).toOption)
      = [some (.sendU 9), some (.sendS 9), some (.sendD 9), some (.sendP 9)] := by decide

/-- A capital letter, no byte, two bytes; a reserved nibble, a wrong key, six bytes. -/
theorem test_decode_rejects :
    [decode (.payload 0 [0x55#8]), decode (.payload 0 []), decode (.payload 0 [0x75#8, 0x75#8]),
     decode (.frame [0xA7#8, 0x30#8, 0#8, 0#8, 0#8, 0#8, 0#8]), decode (.frame [0xA6#8, 0x20#8, 0#8, 0#8, 0#8, 0#8, 0#8]),
     decode (.frame [0xA7#8, 0x20#8, 0#8, 0#8, 0#8, 0#8])].map Except.toOption
      = [none, none, none, none, none, none] := by decide

/-- One row of the opcode table for each format, and a word that is no byte. -/
theorem test_table_words :
    [decodeTableWord 8 0x01, decodeTableWord 8 0x80, decodeTableWord 8 0x64, decodeTableWord 8 0x00,
     decodeTableWord 16 0x01]
      = [some (.buildFrame 0#24 .up 0#16), some (.prog 0#24 0#16), some (.sendD 0), some (.reservedSelector 0x00#8),
         none] := by decide

/-- The placed byte is what the next move serves: `BUILD_FRAME` of zeros is V-C1's row 000000 UP 0000. -/
theorem test_placed_word_runs :
    after (step (State.reset.withFetchWord 8 0x01)) (fun t => (t.result, t.inbox))
      = some (some (.frame ⟨0xA7#8, 0x88#8, 0x88#8, 0x88#8, 0x88#8, 0x88#8, 0x88#8⟩), []) := by decide

/-! ## Frame codec, V-C1 to V-C7 -/

theorem test_fixture_stages :
    (assemble 0x184623#24 .up 0#16, checksum (assemble 0x184623#24 .up 0#16), checkedFrame 0x184623#24 .up 0#16)
      = (⟨0xA7#8, 0x20#8, 0x00#8, 0x00#8, 0x18#8, 0x46#8, 0x23#8⟩, 0x5#4,
         ⟨0xA7#8, 0x25#8, 0x00#8, 0x00#8, 0x18#8, 0x46#8, 0x23#8⟩) := by decide
theorem test_build_frame_halted :
    after (exec (.buildFrame 0x184623#24 .up 0#16) { State.reset with phase := .halted }) State.result
      = some (some (.frame fixture)) := by decide
theorem test_build_frame_corner :
    buildFrame 0xFFFFFF#24 .down 0xFFFF#16 = ⟨0xA7#8, 0xEE#8, 0x11#8, 0xEE#8, 0x11#8, 0xEE#8, 0x11#8⟩ := by decide
theorem test_up :
    after (exec (.up 0x184623#24 0x0BB8#16) State.reset) State.result
      = some (some (.frame ⟨0xA7#8, 0x8A#8, 0x81#8, 0x39#8, 0x21#8, 0x67#8, 0x44#8⟩)) := by decide
theorem test_stop :
    after (exec (.stop 0x123456#24 0x0005#16) State.reset) State.result
      = some (some (.frame ⟨0xA7#8, 0xB9#8, 0xB9#8, 0xBC#8, 0xAE#8, 0x9A#8, 0xCC#8⟩)) := by decide
theorem test_down :
    after (exec (.down 0x800000#24 0x8000#16) State.reset) State.result
      = some (some (.frame ⟨0xA7#8, 0xEE#8, 0x6E#8, 0x6E#8, 0xEE#8, 0xEE#8, 0xEE#8⟩)) := by decide
theorem test_prog :
    after (exec (.prog 0xABCDEF#24 0x0010#16) State.reset) State.result
      = some (some (.frame ⟨0xA7#8, 0x22#8, 0x22#8, 0x32#8, 0x99#8, 0x54#8, 0xBB#8⟩)) := by decide

/-! ## Store, V-S1 to V-S20 -/

theorem test_take_fresh_slot :
    storeAndResult (exec (.takeAndAdvance 0 0x0BB8) (runState [] (pass 5)))
      = some ([(0, 0x0BB9)], some (.code 0x0BB8)) := by decide
theorem test_take_ignores_the_default_of_a_held_slot :
    storeAndResult (exec (.takeAndAdvance 0 0) (runState [(0, 0x0BB9)] (pass 3)))
      = some ([(0, 0x0BBA)], some (.code 0x0BB9)) := by decide
/-- V-S15, `CODE_WIDTH` = 24. -/
theorem test_wide_counter_and_its_frame_code :
    storeAndResult (exec (.takeAndAdvance 0 0) { runState [(0, 0x010005)] (pass 3) with codeWidth := 24 })
        = some ([(0, 0x010006)], some (.code 0x010005)) ∧ frameCode 0x010005 = 0x0005#16 := by decide
theorem test_current_code_of_an_absent_slot :
    storeAndResult (exec (.currentCode 0) (runState [] (pass 1))) = some ([], some (.cell .absent)) := by decide
theorem test_current_code_of_a_held_slot :
    storeAndResult (exec (.currentCode 0) (runState [(0, 0x0BBB)] (pass 1)))
      = some ([(0, 0x0BBB)], some (.cell (.value 0x0BBB))) := by decide
/-- V-S16. -/
theorem test_reset_all :
    storeAndResult (exec (.resetAll [(0, 0), (1, 0x10)]) (resetState [(0, 0x100), (1, 7)] (pass 4)))
      = some ([(0, 0), (1, 0x10)], some .done) := by decide
/-- V-S17. -/
theorem test_reset_all_commit_failure :
    after (exec (.resetAll [(0, 0), (1, 0x10), (2, 5)]) (resetState [(0, 0x100), (1, 7)] (failAt 3)))
        (fun t => (t.store, t.errlog, t.phase))
      = some ([(0, 0), (1, 7)], [.storageError .commit 1], .halted) := by decide

/-! ## Transmitter, V-T1 to V-T7 -/

/-- V-T1, bytes 0 and 4. -/
theorem test_air_bits :
    (List.range 8).map (airBit fixture) = [true, false, true, false, false, true, true, true] ∧
    (List.range 8).map (fun n => airBit fixture (32 + n)) = [true, false, false, true, true, false, true, false] := by
  decide

set_option maxRecDepth 8000 in
/-- V-T3: merged intervals of the first transmission, a repeat and the burst of the fixture. -/
theorem test_merged_counts :
    (mergeAdjacent (frameSegments fixture true)).length = 94 ∧
    (mergeAdjacent (frameSegments fixture false)).length = 102 ∧
    (mergeAdjacent (burst fixture)).length = 298 := by decide

set_option maxRecDepth 8000 in
/-- V-T4, its first row, and V-T6's end. -/
theorem test_merged_intervals :
    (mergeAdjacent (frameSegments fixture true)).take 20
      = [⟨.high, 9415⟩, ⟨.low, 89565⟩, ⟨.high, 2560⟩, ⟨.low, 2560⟩, ⟨.high, 2560⟩, ⟨.low, 2560⟩, ⟨.high, 4550⟩,
         ⟨.low, 1280⟩, ⟨.high, 1280⟩, ⟨.low, 1280⟩, ⟨.high, 1280⟩, ⟨.low, 640⟩, ⟨.high, 640⟩, ⟨.low, 1280⟩, ⟨.high, 640⟩,
         ⟨.low, 640⟩, ⟨.high, 640⟩, ⟨.low, 640⟩, ⟨.high, 640⟩, ⟨.low, 640⟩] ∧
    (mergeAdjacent (frameSegments (buildFrame 0#24 .up 0#16) true)).drop 90 = [⟨.high, 640⟩, ⟨.low, 31055⟩] := by
  decide

theorem test_transmit_burst_outside_run :
    after (exec (.transmitBurst fixture) State.reset) (fun t => (t.errlog, t.trace))
      = some ([.phaseError 0x05#8 .startup], []) := by decide
theorem test_transmit_burst_returns_ok :
    after (exec (.transmitBurst fixture) (runState [] [])) (fun t => (t.result, t.errlog)) = some (some .done, []) := by
  decide

set_option maxRecDepth 8000 in
/-- The last segment of the burst: the silence, then `IDLE`, `LOW` and the result. -/
theorem test_last_segment :
    after (step (busyState 2 128 []))
        (fun t => (t.tx, t.line, t.trace, t.result))
      = some (.idle, .low, [⟨.low, 30415⟩], some (.code 5)) := by decide

set_option maxRecDepth 8000 in
/-- A position that no segment list has. -/
theorem test_position_outside_the_burst : after (step (busyState 0 121 [])) State.tx = none := by decide

/-! ## Command path, V-P1 to V-P7, and V-E -/

/-- V-P1, by the payload letter. -/
theorem test_send_u :
    storeAndResult (exec (.sendU 0) (runState [] (pass 5))) = some ([(0, 0x0BB9)], some (.code 0x0BB8)) := by decide
theorem test_send_d :
    storeAndResult (exec (.sendD 0) (runState [(0, 0x0BB9)] (pass 3)))
      = some ([(0, 0x0BBA)], some (.code 0x0BB9)) := by decide
/-- V-P7. -/
theorem test_send_s :
    storeAndResult (exec (.sendS 0) (runState [(0, 0x0BBA)] (pass 3)))
      = some ([(0, 0x0BBB)], some (.code 0x0BBA)) := by decide
/-- P3c: remote 1, PROG, code 0x10. -/
theorem test_send_p :
    storeAndResult (exec (.sendP 1) { resetState [(1, 0x10)] (pass 3) with phase := .run })
      = some ([(1, 0x11)], some (.code 0x10)) := by decide
/-- P1 and P3: the frames that go out. -/
theorem test_send_frames :
    burstWork (.sendU 0) (runState [(0, 0x0BB8)] (pass 3))
        = some (.ok (⟨0xA7#8, 0x8A#8, 0x81#8, 0x39#8, 0x21#8, 0x67#8, 0x44#8⟩, .code 0x0BB8)
            { runState [(0, 0x0BB9)] [] with drawCount := 3 }) ∧
    burstWork (.sendP 1) { resetState [(1, 0x10)] (pass 3) with phase := .run }
        = some (.ok (⟨0xA7#8, 0x22#8, 0x22#8, 0x32#8, 0x99#8, 0x54#8, 0xBB#8⟩, .code 0x10)
            { resetState [(1, 0x11)] [] with phase := .run, drawCount := 3 }) := ⟨rfl, rfl⟩
/-- V-P6. -/
theorem test_send_aborts :
    after (exec (.sendCommand 0 .stop) (runState [(0, 0x0BBA)] (failAt 2))) (fun t => (t.store, t.trace, t.errlog))
      = some ([(0, 0x0BBA)], [], [.storageError .commit 0]) := by decide
/-- V-E6: the phase is checked before the remote. -/
theorem test_phase_before_remote :
    after (exec (.sendCommand 5 .up) { runState [] [] with phase := .halted }) State.errlog
      = some [.phaseError 0x06#8 .halted] := by decide
/-- V-E7: the payload is decoded before the phase is checked. -/
theorem test_payload_before_phase :
    after (step { runState [] [] with phase := .halted, inbox := [.operation (.payload 0 [0x78#8])] }) State.errlog
      = some [.malformedCommand (.payload [0x78#8])] := by decide
/-- V-E1. -/
theorem test_reserved_selector :
    after (exec (.reservedSelector 0x00#8) State.reset) State.errlog = some [.unknownOperation 0x00#8] := by decide
theorem test_error_codes :
    [ErrorRecord.storageError .read 0, .counterExhausted 0 0, .unknownOperation 0#8].map ErrorRecord.code = [2, 5, 7] := by
  decide

/-! ## Boot, V-B1 to V-B9 -/

theorem test_boot_runs :
    after (step (bootState [prof 0x184623 0x61#8 0 0, prof 0xABCDEF 0x62#8 1 0x10])) State.phase = some .run ∧
    after (step (bootState [])) State.phase = some .run := by decide
theorem test_boot_reports :
    [[prof 0x184623 0x61#8 0 0, prof 0x184623 0x62#8 1 0], [prof 1 0x61#8 0 0, prof 2 0x61#8 1 0],
     [prof 1 0x61#8 0 0, prof 2 0x62#8 0 0], [prof 1 0x61#8 0 0, prof 1 0x62#8 0 0], [prof 0x1000000 0x61#8 0 0],
     [prof 1 0x61#8 0 0x10000]].map (fun ps => after (step (bootState ps)) (fun t => (t.phase, t.errlog)))
      = [some (.halted, [.configError .dupId 0 1]), some (.halted, [.configError .dupKey 0 1]),
         some (.halted, [.configError .dupSlot 0 1]), some (.halted, [.configError .dupId 0 1]),
         some (.halted, [.configError .idRange 0 0]), some (.halted, [.configError .defaultRange 0 0])] := by decide
/-- V-B9: a failed check leaves the store. -/
theorem test_failed_check_does_not_reset :
    after (step { resetState [(0, 0x100)] [] with config := ⟨[remote0, remote0], true⟩ }) State.store
      = some [(0, 0x100)] := by decide

/-! ## Witnesses: states and operands that meet the hypotheses of each obligation, clause by clause -/

/-- DecodeOfEncodeIsTheInstruction: the constructors whose well-formedness is no `true`, at their bounds. -/
theorem test_meets_decode_of_encode :
    [Instr.takeAndAdvance 7 0xFFFF, .resetAll [(0, 0), (1, 0xFFFF)], .reservedSelector 0x00#8, .reservedSelector 0x07#8,
     .reservedSelector 0xFF#8].all (Instr.wellFormed 16) = true := by decide

/-- ReservedSelectorRaisesUnknownOperation. -/
theorem test_meets_reserved_selector :
    ∀ op ∈ [0x00#8, 0x07#8, 0xFF#8], op = 0x00#8 ∨ 0x07#8 ≤ op := by decide

/-- ReservedCommandNibbleIsRefused. -/
theorem test_meets_reserved_nibble :
    ∀ b1 ∈ [0x05#8, 0x30#8, 0xF0#8],
      b1.extractLsb' 4 4 ∉ [0x2#4, 0x1#4, 0x4#4, 0x8#4] ∧
      ({ State.reset with inbox := [.operation (.frame [0xA7#8, b1, 0#8, 0#8, 0#8, 0#8, 0#8])] } : State).tx = .idle := by
  decide

/-- ChecksummedFrameHasNibbleXorZero and ObfuscatedByteIsTheXorOfBytesUpToIt: the fixture's `P`, and i = 0 and 6. -/
theorem test_meets_checksum_law :
    lowNibble (⟨0xA7#8, 0x20#8, 0x00#8, 0x00#8, 0x18#8, 0x46#8, 0x23#8⟩ : Frame).b1 = 0#4 ∧ 0 < 7 ∧ 6 < 7 := by decide

/-- DataBitsGoOutMostSignificantFirst and TransmitBurstSendsThreeTransmissions. -/
theorem test_meets_bounds : 0 < 56 ∧ 55 < 56 ∧ (runState [] []).phase = .run := by decide

/-- BuildFrameIsInjective: two equal frames. -/
theorem test_meets_injective : buildFrame 0x184623#24 .up 0#16 = buildFrame 0x184623#24 .up 0#16 := rfl

/-- CommandRowsBuildTheFrameOfTheirCommand: each row. -/
theorem test_meets_command_rows :
    ∀ x ∈ [(Instr.up 1#24 2#16, 0x2#4), (.stop 1#24 2#16, 0x1#4), (.down 1#24 2#16, 0x4#4), (.prog 1#24 2#16, 0x8#4)],
      x ∈ [(Instr.up 1#24 2#16, 0x2#4), (.stop 1#24 2#16, 0x1#4), (.down 1#24 2#16, 0x4#4), (.prog 1#24 2#16, 0x8#4)] := by
  decide

/-- StoreWriteChangesOnlyItsSlot and CanonicalStoresThatReadAlikeAreEqual. -/
theorem test_meets_store_write :
    (2 : Slot) ≠ 1 ∧ Memory.wf [(1, 5), (2, 0xFFFF)] = true ∧ Memory.fits [(1, 5), (2, 0xFFFF)] 16 = true ∧
    0xFFFF < 2 ^ 16 := by decide
theorem test_meets_stores_read_alike :
    Memory.wf [(1, 5), (2, 6)] = true ∧
    ∀ a, Memory.read [(1, 5), (2, 6)] a = Memory.read (Memory.write [(1, 5)] 2 6) a :=
  ⟨by decide, fun _ => rfl⟩

/-- CurrentCodeReadsWithoutMutation: a read that succeeds and one that fails. -/
theorem test_meets_current_code :
    (runState [] (pass 1)).drawAt 0 = false ∧ (runState [] (failAt 0)).drawAt 0 = true := by decide

/-- TakeReturnsTheHeldCodeAndCommitsTheNext: the largest code that may be sent. -/
theorem test_meets_take_held :
    (runState [(0, 0xFFFE)] (pass 3)).phase = .run ∧ (runState [(0, 0xFFFE)] (pass 3)).staged = [] ∧
    (runState [(0, 0xFFFE)] (pass 3)).callsSucceed 3 ∧
    (runState [(0, 0xFFFE)] (pass 3)).store.read 0 = .value 0xFFFE ∧ 0xFFFE ≠ 2 ^ 16 - 1 := by decide

/-- TakeOnAnAbsentSlotUsesTheDefault. -/
theorem test_meets_take_absent :
    (runState [] (pass 5)).phase = .run ∧ (runState [] (pass 5)).staged = [] ∧ (runState [] (pass 5)).callsSucceed 5 ∧
    (runState [] (pass 5)).store.read 0 = .absent ∧ 0xFFFE ≠ 2 ^ 16 - 1 := by decide

/-- ExhaustedCounterIsNeverSentOrWrapped: both clauses. -/
theorem test_meets_exhausted :
    (∀ m ∈ [[(0, 0xFFFF)], []], ∀ n ∈ [1, 3],
      (runState m (pass n)).phase = .run ∧ (runState m (pass n)).staged = []) ∧
    (runState [(0, 0xFFFF)] (pass 1)).callsSucceed 1 ∧
    (runState [(0, 0xFFFF)] (pass 1)).store.read 0 = .value (2 ^ 16 - 1) ∧
    (runState [] (pass 3)).callsSucceed 3 ∧ (runState [] (pass 3)).store.read 0 = .absent ∧ 0xFFFF = 2 ^ 16 - 1 := by
  decide

/-- TakeFailureLeavesTheLastCommittedValue: each clause, on an absent slot and on one that holds 5. -/
theorem test_meets_take_failure :
    (∀ m ∈ [[(0, 5)], []], ∀ n ∈ [0, 1, 2, 3, 4],
      (runState m (failAt n)).phase = .run ∧ (runState m (failAt n)).staged = [] ∧
      (runState m (failAt n)).codeWidth = 16) ∧ 5 ≠ 2 ^ 16 - 1 ∧
    (runState [] (failAt 0)).drawAt 0 = true ∧
    (∀ n ∈ [1, 2, 3, 4], (runState [] (failAt n)).callsSucceed n ∧ (runState [] (failAt n)).drawAt n = true ∧
      (runState [] (failAt n)).store.read 0 = .absent) ∧
    (∀ n ∈ [1, 2], (runState [(0, 5)] (failAt n)).callsSucceed n ∧ (runState [(0, 5)] (failAt n)).drawAt n = true ∧
      (runState [(0, 5)] (failAt n)).store.read 0 = .value 5) := by decide

/-- FreshSlotYieldsConsecutiveCodes: three calls, up to the top of the range. -/
theorem test_meets_fresh_slot :
    (runState [] (pass 11)).phase = .run ∧ (runState [] (pass 11)).staged = [] ∧
    (runState [] (pass 11)).store.read 0 = .absent ∧ 0xFFFC + (2 + 1) ≤ 2 ^ 16 - 1 ∧
    (runState [] (pass 11)).callsSucceed (3 * 2 + 5) := by decide

/-- A configuration with `r0` alone. -/
def config0 : Configuration := { profiles := [remote0], resetReq := false }

/-- LaterTakeReturnsALargerCode: a restart and a boot between two takes on one slot. -/
theorem test_meets_later_take :
    ∃ s1 s2 s3, (({ runState [(0, 5)] (pass 6) with inbox := [.restart config0, .boot] } : State).staged = []) ∧
      exec (.takeAndAdvance 0 0) { runState [(0, 5)] (pass 6) with inbox := [.restart config0, .boot] } = .next s1 ∧
      s1.result = some (.code 5) ∧ RunWithoutReset 2 s1 s2 ∧
      exec (.takeAndAdvance 0 0) s2 = .next s3 ∧ s3.result = some (.code 6) :=
  ⟨_, _, _, rfl, rfl, rfl, ⟨rfl, _, rfl, rfl, _, rfl, rfl⟩, rfl, rfl⟩

/-- OnlyAResetLowersACounter: a state in STARTUP without `RESET_REQ`, and a move from it. -/
theorem test_meets_no_reset :
    ∃ t, ({ bootState [remote0] with store := [(0, 5)] } : State).staged = [] ∧
      mayReset { bootState [remote0] with store := [(0, 5)] } = false ∧
      step { bootState [remote0] with store := [(0, 5)] } = .next t ∧ Memory.read [(0, 5)] 0 = .value 5 :=
  ⟨_, rfl, rfl, rfl, rfl⟩

/-- ResetAllWritesEveryDefault: two slots, and the empty list. -/
theorem test_meets_reset_all :
    (resetState [] (pass 4)).phase = .startup ∧ (resetState [] (pass 4)).config.resetReq = true ∧
    (resetState [] (pass 4)).staged = [] ∧ (resetState [] (pass 4)).callsSucceed (2 * [(0, 0), (1, 0x10)].length) ∧
    ([(0, 0), (1, 0x10)].map Prod.fst).Nodup ∧ (resetState [] []).callsSucceed (2 * ([] : List (Slot × Nat)).length) := by
  decide

/-- ResetAllStopsAtTheFirstFailure: the write and the commit of the second of three slots. -/
theorem test_meets_reset_all_failure :
    ∀ x ∈ [(2, Stage.write), (3, Stage.commit)],
      (resetState [] (failAt x.1)).phase = .startup ∧ (resetState [] (failAt x.1)).config.resetReq = true ∧
      (resetState [] (failAt x.1)).staged = [] ∧
      x ∈ [(2 * [((0 : Slot), 0)].length, Stage.write), (2 * [((0 : Slot), 0)].length + 1, Stage.commit)] ∧
      (resetState [] (failAt x.1)).callsSucceed x.1 ∧ (resetState [] (failAt x.1)).drawAt x.1 = true ∧
      (([((0 : Slot), 0)] ++ ((1 : Slot), 0x10) :: [((2 : Slot), 5)]).map Prod.fst).Nodup := by decide

/-- SegmentLevelBurstEqualsTheAtomicBurst: `SEND_COMMAND` with a boot waiting; an operation that errors before its burst, and
one that has none. -/
theorem test_meets_segment_level :
    (∃ r m, decode (.payload 0 [0x75#8]) = .ok (.sendU 0) ∧ (Instr.sendU 0).wellFormed 16 = true ∧
      (runState [(0, 5)] (pass 3)).tx = .idle ∧ (runState [(0, 5)] (pass 3)).burstResult = none ∧
      burstWork (.sendU 0) { runState [(0, 5)] (pass 3) with inbox := [.boot] } = some (.ok r m) ∧
      ∀ e es, [Event.boot] = e :: es → e.waitsForBurst = true) ∧
    (∃ e m, burstWork (.sendU 0) (runState [(0, 5)] (failAt 2)) = some (.err e m)) ∧
    burstWork (.currentCode 0) (runState [] []) = none :=
  ⟨⟨_, _, rfl, rfl, rfl, rfl, rfl, fun _ _ h => by cases h; rfl⟩, ⟨_, _, rfl⟩, rfl⟩

/-- RunningBurstMakesEveryRequestWait: the first segment of a burst and the last; a boot that waits, a tick, no event; and a
tick with no burst. -/
theorem test_meets_running_burst :
    (∀ k j, ∀ inbox ∈ [[.boot], [.tick], []],
      (busyState k j inbox).tx = .busy (buildFrame 0x184623#24 .up 0x0005#16) k j ∧ (busyState k j inbox).inbox = inbox) ∧
    (∀ g, 0 < (segmentsAt g 0).length ∧ 128 < (segmentsAt g 2).length) ∧ Event.boot.waitsForBurst = true ∧
    ({ runState [] [] with inbox := [.tick, .boot] } : State).tx = .idle := by
  simp [length_segmentsAt, Event.waitsForBurst, busyState, runState, State.reset]

set_option maxRecDepth 8000 in
/-- A tick is one segment, and the other events stay (R176): the wake pulse's second half. -/
theorem test_tick_in_a_burst :
    after (step (busyState 0 1 [.tick, .boot])) (fun t => (t.inbox, t.trace, t.line, t.result))
      = some ([.boot], [⟨.low, 89565⟩], .low, none) := by decide

/-- MergingKeepsTimeAndAlternates: a waveform without empty segments, with neighbours of one level. -/
theorem test_meets_merging :
    (∀ seg ∈ swSyncSegments ++ bitSegments true, 0 < seg.duration) ∧
    mergeAdjacent (swSyncSegments ++ bitSegments true) = [⟨.high, 4550⟩, ⟨.low, 1280⟩, ⟨.high, 640⟩] := by decide

/-- A state in RUN that has sent one burst since reset and sends nothing now. -/
def sentState : State := { runState [(0, 6)] [] with trace := burst fixture }

/-- BurstsStartAtLeastOneBurstApart: one burst in `TRACE`, and the next one to come. -/
theorem test_meets_bursts_apart : BlockInvariant sentState ∧ sentState.trace = [fixture].flatMap burst ∧
    0 < 1 ∧ 1 ≤ [fixture].length where
  left :=
    { width := by decide
      canonical := by decide
      cellsFit := by decide
      nothingStaged := rfl
      lineFollowsTrace := by
        simp [sentState, levelAfter, burst, List.getLast?_append, getLast_frameSegments, runState, State.reset]
      idleIsLow := fun _ => ⟨rfl, rfl⟩
      busyIsLegal := fun _ _ _ h => by cases h
      wholeBursts := ⟨[fixture], by simp [sentState, runState, State.reset]⟩
      durable := fun _ _ _ _ h => by cases h
      runIsConfigured := fun _ => by decide
      quietOutsideRun := fun h => absurd rfl h }
  right := ⟨by simp [sentState], by decide, by decide⟩

/-- RealBurstDurationIsWithinTheJitter: the nominal waveform itself. -/
theorem test_meets_jitter : withinJitter (burst fixture) (burst fixture) :=
  List.forall₂_same.2 fun _ _ => ⟨rfl, by omega, by omega⟩

/-- SendTakesTheHeldCodeBuildsAndSends and SendOnAnAbsentSlotUsesTheDefault: each form, and the states. -/
theorem test_meets_send :
    (∀ x ∈ [(Instr.sendCommand 0 .prog, Command.prog), (.sendU 0, .up), (.sendS 0, .stop), (.sendD 0, .down),
            (.sendP 0, .prog)],
      x ∈ [(Instr.sendCommand 0 x.2, x.2), (Instr.sendU 0, Command.up), (Instr.sendS 0, Command.stop),
           (Instr.sendD 0, Command.down), (Instr.sendP 0, Command.prog)]) ∧
    (∀ m ∈ [[(0, 0xFFFE)], []], ∀ n ∈ [3, 5], (runState m (pass n)).phase = .run ∧
      (runState m (pass n)).staged = [] ∧ (runState m (pass n)).config.profiles[0]? = some remote0) ∧
    (runState [(0, 0xFFFE)] (pass 3)).callsSucceed 3 ∧
    (runState [(0, 0xFFFE)] (pass 3)).store.read remote0.slot = .value 0xFFFE ∧ 0xFFFE ≠ 2 ^ 16 - 1 ∧
    (runState [] (pass 5)).callsSucceed 5 ∧ (runState [] (pass 5)).store.read remote0.slot = .absent ∧
    remote0.defaultCode ≠ 2 ^ 16 - 1 := by decide

/-- SendAbortsAsTakeDoes: the advancing commit fails, and the counter is exhausted; the forms are those of
`test_meets_unknown_remote`. -/
theorem test_meets_send_aborts :
    (runState [(0, 5)] (failAt 2)).phase = .run ∧ (runState [(0, 0xFFFF)] (pass 1)).phase = .run ∧
    (runState [(0, 5)] (failAt 2)).config.profiles[0]? = some remote0 ∧
    (runState [(0, 0xFFFF)] (pass 1)).config.profiles[0]? = some remote0 ∧
    after (exec (.takeAndAdvance remote0.slot remote0.defaultCode) (runState [(0, 5)] (failAt 2))) State.result
      = some (some (.error (.storageError .commit 0))) ∧
    after (exec (.takeAndAdvance remote0.slot remote0.defaultCode) (runState [(0, 0xFFFF)] (pass 1))) State.result
      = some (some (.error (.counterExhausted 0 0xFFFF))) := by decide

/-- NothingIsSentBeforeItsCommit: a command that emits; the letters' forms are those of `test_meets_send`. -/
theorem test_meets_nothing_sent_before :
    ∃ t, (runState [(0, 5)] (pass 3)).staged = [] ∧
      exec (.sendCommand 0 .up) (runState [(0, 5)] (pass 3)) = .next t ∧
      t.trace ≠ (runState [(0, 5)] (pass 3)).trace := by
  refine ⟨_, rfl, rfl, ?_⟩
  have h : prepareSend 0 .up (runState [(0, 5)] (pass 3))
      = .ok (buildFrame 0x184623#24 .up 5#16, .code 5) { runState [(0, 6)] [] with drawCount := 3 } := rfl
  rw [h]
  simp [finishBurst, transmit_eq, State.returns, burst, frameSegments, silenceSegments, runState, State.reset]

/-- UnknownRemoteIsMalformed: the first index past the end, each form. -/
theorem test_meets_unknown_remote :
    (∀ i ∈ [Instr.sendCommand 1 .up, .sendU 1, .sendS 1, .sendD 1, .sendP 1],
      i ∈ [Instr.sendCommand 1 .up, .sendU 1, .sendS 1, .sendD 1, .sendP 1]) ∧
    (runState [] []).phase = .run ∧ (runState [] []).staged = [] ∧ (runState [] []).config.profiles.length ≤ 1 := by decide

/-- PayloadDecoding: each letter, and payloads that are none. -/
theorem test_meets_payload :
    (∀ x ∈ [([0x75#8], Command.up), ([0x73#8], .stop), ([0x64#8], .down), ([0x70#8], .prog)],
      x ∈ [([0x75#8], Command.up), ([0x73#8], Command.stop), ([0x64#8], Command.down), ([0x70#8], Command.prog)]) ∧
    (runState [] []).tx = .idle ∧ (runState [] []).staged = [] ∧
    ∀ b ∈ [[], [0x55#8], [0x75#8, 0x75#8]],
      ({ runState [] [] with inbox := [.operation (.payload 0 b)] } : State).inbox = [.operation (.payload 0 b)] ∧
      b ∉ [[0x75#8], [0x73#8], [0x64#8], [0x70#8]] := by decide

/-- UnadmittedOperationsRaisePhaseError: each form out of its phase. -/
theorem test_meets_unadmitted :
    (∀ x ∈ [(Instr.takeAndAdvance 0 0, 0x03#8), (.transmitBurst fixture, 0x05#8), (.sendCommand 0 .up, 0x06#8),
            (.sendU 0, 0x06#8), (.sendS 0, 0x06#8), (.sendD 0, 0x06#8), (.sendP 0, 0x06#8)],
      x ∈ [(Instr.takeAndAdvance 0 0, 0x03#8), (.transmitBurst fixture, 0x05#8), (.sendCommand 0 .up, 0x06#8),
           (.sendU 0, 0x06#8), (.sendS 0, 0x06#8), (.sendD 0, 0x06#8), (.sendP 0, 0x06#8)]) ∧
    (bootState []).staged = [] ∧ (runState [] []).staged = [] ∧
    (bootState []).phase ≠ .run ∧ ¬ ((bootState []).phase = .startup ∧ (bootState []).config.resetReq = true) ∧
    ¬ ((runState [] []).phase = .startup ∧ (runState [] []).config.resetReq = true) := by decide

/-- AdmittedOperationsRaiseNoPhaseError: a `PhaseError` that is raised. -/
theorem test_meets_phase_error :
    after (exec (.resetAll [(0, 0)]) (runState [] [])) State.result = some (some (.error (.phaseError 0x04#8 .run))) := by
  decide

/-- OperationsNeverWriteConfigAndRarelyPhase, OperationsWriteOnlyTheirOwnState and NoResultDependsOnLineOrTrace: a next
state, of an operation that sends. -/
theorem test_meets_next_state :
    (runState [(0, 5)] (pass 3)).staged = [] ∧
    ∃ t, exec (.sendCommand 0 .up) (runState [(0, 5)] (pass 3)) = .next t := ⟨rfl, _, rfl⟩

/-- OperationsIgnoreTopicKeyAndTravelTime: the same profile with another key and travel time. -/
theorem test_meets_other_keys :
    [{ remote0 with topicKey := [], travelTimeMs := 9 }].map (fun p : Profile => (p.id, p.defaultCode, p.slot))
      = (runState [] []).config.profiles.map (fun p => (p.id, p.defaultCode, p.slot)) := by decide

/-- HaltedLastsUntilRestart: a refused command, a boot event and a read, three moves. -/
theorem test_meets_halted :
    after (moves 3 { runState [(0, 5)] (pass 1) with
        phase := .halted,
        inbox := [.operation (.payload 0 [0x75#8]), .boot, .stepwise (.select 0x02#8 zeroOperands)] })
      (fun t => (t.phase, t.errlog, t.result))
      = some (.halted, [.phaseError 0x06#8 .halted], some (.cell (.value 5))) := by decide

/-- RestartGivesResetValuesAndKeepsTheStore: a restart inside a burst. -/
theorem test_meets_restart_in_a_burst :
    after (step (busyState 1 7 [.restart config0])) (fun t => (t.phase, t.tx, t.store)) = some (.startup, .idle, [(0, 6)]) := by
  decide

/-- BootSequence and FailedBootResetHalts: each clause; the boot event, and no event. -/
theorem test_meets_boot :
    (∀ inbox ∈ [[Event.boot], []], ({ resetState [] (pass 4) with inbox := inbox } : State).inbox = .boot :: [] ∨
      ({ resetState [] (pass 4) with inbox := inbox } : State).inbox = [] ∧ ([] : List Event) = []) ∧
    (resetState [] (pass 4)).tx = .idle ∧ (resetState [] (pass 4)).staged = [] ∧
    (resetState [] (pass 4)).phase = .startup ∧ (bootState []).phase = .startup ∧ configCheck 16 ⟨[], false⟩ = none ∧
    (runState [] []).phase ≠ .startup ∧ configCheck 16 ⟨[remote0, remote0], false⟩ = some (.dupId, 0, 1) ∧
    configCheck 16 ⟨[remote0, remote1], true⟩ = none ∧ (bootState []).config.resetReq = false ∧
    (resetState [] (pass 4)).callsSucceed (2 * (resetState [] (pass 4)).config.profiles.length) := by decide

/-- FailedBootResetHalts: the second profile's write and commit. -/
theorem test_meets_failed_boot_reset :
    configCheck 16 ⟨[remote0, remote1], true⟩ = none ∧
    (∀ n ∈ [2, 3], (resetState [] (failAt n)).config = ⟨[remote0] ++ remote1 :: [], true⟩ ∧
      (resetState [] (failAt n)).tx = .idle ∧ (resetState [] (failAt n)).staged = [] ∧
      (resetState [] (failAt n)).phase = .startup) ∧
    ∀ x ∈ [(2, Stage.write), (3, Stage.commit)],
      x ∈ [(2 * [remote0].length, Stage.write), (2 * [remote0].length + 1, Stage.commit)] ∧
      (resetState [] (failAt x.1)).callsSucceed x.1 ∧ (resetState [] (failAt x.1)).drawAt x.1 = true := by decide

/-- ConfigCheckReportsTheFirstFailure: each reason, the lowest pair or index of several. -/
theorem test_meets_config_reports :
    [[prof 1 0x61#8 0 0, prof 2 0x62#8 1 0, prof 2 0x63#8 2 0, prof 1 0x64#8 3 0],
     [prof 1 0x61#8 0 0, prof 2 0x62#8 1 0, prof 3 0x61#8 2 0], [prof 1 0x61#8 0 0, prof 2 0x62#8 1 0, prof 3 0x63#8 1 0],
     [prof 1 0x61#8 0 0, prof 0x1000000 0x62#8 1 0x10000], [prof 1 0x61#8 0 0, prof 2 0x62#8 1 0x10000]].map
        (fun ps => configCheck 16 ⟨ps, false⟩)
      = [some (.dupId, 0, 3), some (.dupKey, 0, 2), some (.dupSlot, 1, 2), some (.idRange, 1, 1),
         some (.defaultRange, 1, 1)] := by decide

/-- A state in RUN where a restart falls before store call `n` of a request. -/
def cutState (req : Request) (n : Nat) (store : Memory) : State :=
  { runState store [] with inbox := [.restartInOperation req n config0] }

/-- The store after the cut of a request before each of the calls `ns`. -/
def cutStores (req : Request) (ns : List Nat) (store : Memory) : List (Option Memory) :=
  ns.map fun n => after (step (cutState req n store)) State.store

/-- CrashWindowsLeaveTheCommittedCounter: the state, and each form of the request. -/
theorem test_meets_crash_state :
    (∀ req ∈ [Request.select 0x03#8 zeroOperands, .select 0x06#8 zeroOperands, .payload 0 [0x70#8]],
      ∀ m ∈ [[(0, 5)], [(0, 0xFFFF)], []], ∀ n ∈ [0, 2, 3, 4, 5],
      (cutState req n m).tx = .idle ∧ (cutState req n m).staged = [] ∧ (cutState req n m).phase = .run ∧
      (cutState req n m).config.profiles[0]? = some remote0) ∧
    zeroOperands.remote = 0 ∧ zeroOperands.slot = 0 ∧ zeroOperands.dflt < 2 ^ 16 ∧
    0x70#8 ∈ [0x75#8, 0x73#8, 0x64#8, 0x70#8] := by decide

/-- CrashWindowsLeaveTheCommittedCounter: before and after each boundary (R257, points 1 and 3), and exhausted counters. -/
theorem test_meets_crash_windows :
    cutStores (.select 0x06#8 zeroOperands) [2, 3] [(0, 5)] = [some [(0, 5)], some [(0, 6)]] ∧
    cutStores (.payload 0 [0x75#8]) [2, 3, 4, 5] []
      = [some [], some [(0, 0x0BB8)], some [(0, 0x0BB8)], some [(0, 0x0BB9)]] ∧
    cutStores (.select 0x03#8 { zeroOperands with dflt := 0xFFFF }) [2, 3, 5] []
      = [some [], some [(0, 0xFFFF)], some [(0, 0xFFFF)]] ∧
    cutStores (.select 0x03#8 zeroOperands) [5] [(0, 0xFFFF)] = [some [(0, 0xFFFF)]] := by decide

/-- CutResetKeepsTheSlotsBeforeTheCut: the boot sequence of two profiles cut before each call and after the last, one that
resets nothing, and a host's `RESET_ALL`. -/
theorem test_meets_cut_reset :
    ([0, 1, 2, 3, 4].map fun n =>
      after (step { resetState [(0, 0x100), (1, 7)] [] with inbox := [.restartInBoot n config0] }) State.store)
      = [some [(0, 0x100), (1, 7)], some [(0, 0x100), (1, 7)], some [(0, 0x0BB8), (1, 7)], some [(0, 0x0BB8), (1, 7)],
         some [(0, 0x0BB8), (1, 0x10)]] ∧
    after (step { bootState [remote0] with store := [(0, 5)], inbox := [.restartInBoot 2 config0] }) State.store
      = some [(0, 5)] ∧
    after (step { resetState [(0, 5)] [] with
        inbox := [.restartInOperation (.select 0x04#8 { zeroOperands with defaults := [(0, 1), (2, 3)] }) 3 config0] })
      State.store = some [(0, 1)] := by decide

/-- The reason of a refusal. -/
def refusal (o : Host.Outcome State Fault Refusal) : Option Refusal :=
  match o with
  | .next _ => none
  | .fault _ => none
  | .refused r => some r

set_option maxRecDepth 8000 in
/-- MovesStopExactlyWhereNamed: each refusal at its boundary, by each event that brings a request, and the fault. -/
theorem test_meets_stops :
    ([.operation (.frame [0xA7#8, 0x20#8, 0#8, 0#8, 0#8, 0#8]), .stepwise (.frame [0xA6#8, 0x20#8, 0#8, 0#8, 0#8, 0#8, 0#8]),
      .restartInOperation (.frame [0xA7#8, 0x30#8, 0#8, 0#8, 0#8, 0#8, 0#8]) 0 config0,
      .operation (.select 0x03#8 { zeroOperands with dflt := 0x10000 }),
      .operation (.select 0x04#8 { zeroOperands with defaults := [(0, 5), (1, 0x10000)] }),
      .operation (.select 0x04#8 { zeroOperands with dflt := 0x10000, defaults := [(0, 0xFFFF)] })].map
        (fun e => refusal (step { runState [] [] with inbox := [e] })))
      = [some .notAFrame, some .notAFrame, some (.reservedCommandNibble 0x3#4), some .operandOutsideType,
         some .operandOutsideType, none] ∧
    (busyState 0 121 [.boot]).tx = .busy (buildFrame 0x184623#24 .up 0x0005#16) 0 121 ∧
    (∀ g, (segmentsAt g 0).length ≤ 121) := by
  refine ⟨by decide, rfl, fun g => by simp [length_segmentsAt]⟩

/-- StepRunsTheDecodedInstruction. -/
theorem test_meets_step_runs :
    State.reset.tx = .idle ∧
    ({ State.reset with inbox := [.operation (.select 0x03#8 { zeroOperands with dflt := 0xFFFF })] } : State).inbox
      = [.operation (.select 0x03#8 { zeroOperands with dflt := 0xFFFF })] ∧
    decode (.select 0x03#8 { zeroOperands with dflt := 0xFFFF }) = .ok (.takeAndAdvance 0 0xFFFF) ∧
    (Instr.takeAndAdvance 0 0xFFFF).wellFormed State.reset.codeWidth = true := ⟨rfl, rfl, rfl, rfl⟩

/-- The invariant where a burst has begun, whatever events and draws are to come. -/
theorem test_busy_state_is_legal (inbox : List Event) (draws : List Bool) :
    BlockInvariant { busyState 0 0 inbox with draws := draws } where
  width := Nat.le_refl 16
  canonical := rfl
  cellsFit := by show Memory.fits [(0, 6)] 16 = true; decide
  nothingStaged := rfl
  lineFollowsTrace := rfl
  idleIsLow := fun h => by cases h
  busyIsLegal := fun _ _ _ h => by cases h; exact ⟨by simp [length_segmentsAt], rfl, rfl⟩
  wholeBursts := ⟨[], rfl⟩
  durable := fun _ _ _ _ h h' => by
    cases h; cases h'; exact ⟨remote0, by simp [busyState, runState], .up, rfl, rfl⟩
  runIsConfigured := fun _ => by show configCheck 16 config0 = none; decide
  quietOutsideRun := fun h => absurd rfl h

/-- EveryMoveKeepsTheBlockInvariant: a burst has begun, and a move from there. -/
theorem test_meets_invariant : BlockInvariant (busyState 0 0 []) ∧ ∃ t, step (busyState 0 0 []) = .next t :=
  ⟨test_busy_state_is_legal [] [], _, rfl⟩

/-- CodeOnTheLineIsNeverTakenAgain: the burst of code 5 is cut by a restart; after the boot sequence the next take, and the
next command of the remote, carry 6. -/
theorem test_meets_code_on_the_line :
    BlockInvariant { busyState 0 0 [.restart config0, .boot] with draws := pass 3 } ∧
    (busyState 0 0 [.restart config0, .boot]).burstResult = some (.code 5) ∧
    ∃ t u v, RunWithoutReset 2 { busyState 0 0 [.restart config0, .boot] with draws := pass 3 } t ∧
      exec (.takeAndAdvance remote0.slot 0) t = .next u ∧ u.result = some (.code 6) ∧
      t.config.profiles[0]? = some remote0 ∧ exec (.sendP 0) t = .next v ∧ v.result = some (.code 6) :=
  ⟨test_busy_state_is_legal _ _, rfl, _, _, _, ⟨rfl, _, rfl, rfl, _, rfl, rfl⟩, rfl, rfl, rfl, rfl, rfl⟩

end Sys2Proof.Tests
end

section
/-! SUPPORT. What an operation can do, said once: how its statements end, what they leave of the store, and the
four ends of `exec`. -/

namespace Sys2Proof.Machine

/-! ## Results and errors of an operation -/

/-- `OK(v)`, a result that is no error (R11). -/
def Result.IsOk (v : Result) : Prop := ∀ e, v ≠ .error e

/-- The errors of the store primitives (R220). -/
def ErrorRecord.IsStorage (e : ErrorRecord) : Prop := ∃ stage slot, e = .storageError stage slot

/-- The errors an operation can raise: `ConfigError` belongs to the boot sequence (R221) and `TransportUnavailable` to
nobody (R225). -/
def ErrorRecord.IsOperational (e : ErrorRecord) : Prop :=
  e ≠ .transportUnavailable ∧ ∀ reason r1 r2, e ≠ .configError reason r1 r2

theorem ErrorRecord.IsStorage.isOperational {e : ErrorRecord} (h : e.IsStorage) : e.IsOperational := by
  obtain ⟨stage, slot, rfl⟩ := h
  exact ⟨nofun, nofun⟩

/-- A statement that goes on does so with a value in `V`, and one that raises raises an error in `E`. -/
def Res.Ends {α : Type} (V : α → Prop) (E : ErrorRecord → Prop) : Res α → Prop
  | .ok a _ => V a
  | .err e _ => E e

theorem Res.Ends.andThen {α β : Type} {V : α → Prop} {W : β → Prop} {E : ErrorRecord → Prop} {r : Res α}
    {f : α → State → Res β} (h : r.Ends V E) (hf : ∀ a m, V a → (f a m).Ends W E) : (r.andThen f).Ends W E := by
  cases r with
  | ok a m => exact hf a m h
  | err e m => exact h

theorem Res.Ends.operational {α : Type} {V : α → Prop} {r : Res α} (h : r.Ends V ErrorRecord.IsStorage) :
    r.Ends V ErrorRecord.IsOperational := by
  cases r with
  | ok a m => exact h
  | err e m => exact h.isOperational

theorem memRead_ends (slot : Slot) (s : State) :
    (memRead slot s).Ends (fun _ => True) ErrorRecord.IsStorage := by
  rcases memRead_cases slot s with ⟨_, h⟩ | ⟨_, h⟩ <;> rw [h]
  · trivial
  · exact ⟨_, _, rfl⟩

theorem memWrite_ends (slot : Slot) (v : Nat) (s : State) :
    (memWrite slot v s).Ends (fun _ => True) ErrorRecord.IsStorage := by
  unfold memWrite
  split
  · exact ⟨_, _, rfl⟩
  · trivial

theorem memCommit_ends (slot : Slot) (s : State) :
    (memCommit slot s).Ends (fun _ => True) ErrorRecord.IsStorage := by
  unfold memCommit
  split
  · exact ⟨_, _, rfl⟩
  · trivial

theorem writeDurably_ends (slot : Slot) (v : Nat) (s : State) :
    (writeDurably slot v s).Ends (fun _ => True) ErrorRecord.IsStorage :=
  (memWrite_ends slot v s).andThen fun _ m _ => memCommit_ends slot m

theorem resetEach_ends (l : List (Slot × Nat)) (s : State) :
    (resetEach l s).Ends (fun _ => True) ErrorRecord.IsStorage := by
  induction l generalizing s with
  | nil => trivial
  | cons x l ih => exact (writeDurably_ends x.1 x.2 s).andThen fun _ m _ => ih m

theorem takenCode_ends (slot : Slot) (d : Nat) (cell : Cell) (s : State) :
    (takenCode slot d cell s).Ends (fun _ => True) ErrorRecord.IsOperational := by
  cases cell with
  | absent =>
    exact (writeDurably_ends slot d s).operational.andThen fun _ _ _ => trivial
  | value v => trivial

theorem advance_ends (slot : Slot) (c : Nat) (s : State) :
    (advance slot c s).Ends (fun _ => True) ErrorRecord.IsOperational := by
  unfold advance
  split
  · exact ⟨nofun, nofun⟩
  · exact (writeDurably_ends slot (c + 1) s).operational.andThen fun _ _ _ => trivial

theorem takeAndAdvance_ends (slot : Slot) (d : Nat) (s : State) :
    (takeAndAdvance slot d s).Ends (fun _ => True) ErrorRecord.IsOperational :=
  (memRead_ends slot s).operational.andThen fun cell m _ =>
    (takenCode_ends slot d cell m).andThen fun c m _ => advance_ends slot c m

/-- The phase test either lets the body run or ends the operation with a `PhaseError` (R234). -/
theorem ifAdmitted_ends {α : Type} {V : α → Prop} (op : Byte) (s : State) (body : State → Res α)
    (h : (body s).Ends V ErrorRecord.IsOperational) : (ifAdmitted op s body).Ends V ErrorRecord.IsOperational := by
  unfold ifAdmitted
  split
  · exact h
  · exact ⟨nofun, nofun⟩

/-! ## The store part of an operation -/

/-- The store as the block keeps it between statements: canonical, in range (R24), nothing staged (R54). -/
structure StoreSound (s : State) : Prop where
  canonical : s.store.wf = true
  fits : s.store.fits s.codeWidth = true
  nothingStaged : s.staged = []

theorem StoreSound.afterDraws {s : State} (h : StoreSound s) (n : Nat) : StoreSound (s.afterDraws n) :=
  ⟨h.canonical, h.fits, h.nothingStaged⟩

theorem takeAndAdvance_sound {slot : Slot} {d : Nat} {s : State} (h : StoreSound s) (hd : d < 2 ^ s.codeWidth) :
    StoreSound (takeAndAdvance slot d s).state := by
  cases hr : takeAndAdvance slot d s with
  | ok c t =>
    obtain ⟨n, rfl, hlast, hread⟩ := takeAndAdvance_ok h.nothingStaged hr
    have hc : c < 2 ^ s.codeWidth := by
      rcases hread with hv | ⟨_, rfl⟩
      · exact Memory.fits_read _ _ _ _ h.fits hv
      · exact hd
    have hsucc : c + 1 < 2 ^ s.codeWidth := by omega
    exact ⟨Memory.write_wf _ _ _ h.canonical, Memory.write_fits _ _ _ _ h.fits hsucc, rfl⟩
  | err e t =>
    obtain ⟨n, m, rfl, hm, _⟩ := takeAndAdvance_err h.nothingStaged hr
    rcases hm with rfl | ⟨_, rfl⟩
    · exact ⟨h.canonical, h.fits, rfl⟩
    · exact ⟨Memory.write_wf _ _ _ h.canonical, Memory.write_fits _ _ _ _ h.fits hd, rfl⟩

theorem resetEach_sound {l : List (Slot × Nat)} {s : State} (h : StoreSound s)
    (hl : ∀ sd ∈ l, sd.2 < 2 ^ s.codeWidth) : StoreSound (resetEach l s).state := by
  rcases resetEach_cases l s h.nothingStaged with ⟨_, he⟩ |
    ⟨before, slot, d, after, stage, n, rfl, _, _, _, he⟩ <;> rw [he]
  · exact ⟨Memory.writeAll_wf _ _ h.canonical, Memory.writeAll_fits _ _ _ h.fits hl, rfl⟩
  · exact ⟨Memory.writeAll_wf _ _ h.canonical,
      Memory.writeAll_fits _ _ _ h.fits fun sd hsd => hl sd (by simp [hsd]), rfl⟩

/-- A checked configuration has its defaults in range (R252, check 5). -/
theorem defaultCode_lt_of_configCheck {cw : Nat} {cfg : Configuration} (h : configCheck cw cfg = none) {p : Profile}
    (hp : p ∈ cfg.profiles) : p.defaultCode < 2 ^ cw := by
  have hd : singleCheck .defaultRange (fun p => decide (2 ^ cw ≤ p.defaultCode)) cfg.profiles = none := by
    simp only [configCheck, Option.or_eq_none_iff] at h
    exact h.2.2.2.2
  have := (firstIndex_eq_none _ _ _).1 (Option.map_eq_none_iff.1 hd) p hp
  simpa using this

/-- `m` is where the store part of operation `i` can leave `s`: only the store, the staged writes and the draws differ,
and the store stays sound where the operands fit and RUN has a checked configuration. -/
structure StoreWork (i : Instr) (s m : State) : Prop where
  storeOnly : StoreOnly s m
  sound : StoreSound s → i.wellFormed s.codeWidth = true →
    (s.phase = .run → configCheck s.codeWidth s.config = none) → StoreSound m

theorem StoreWork.refl (i : Instr) (s : State) : StoreWork i s s := ⟨.refl s, fun h _ _ => h⟩

theorem StoreWork.ifAdmitted {α : Type} {i : Instr} {op : Byte} {s : State} {body : State → Res α}
    (h : StoreWork i s (body s).state) : StoreWork i s (ifAdmitted op s body).state := by
  unfold Machine.ifAdmitted
  split
  · exact h
  · exact .refl i s

theorem StoreWork.andThen_ok {α β : Type} {i : Instr} {s : State} {r : Res α} (h : StoreWork i s r.state) (f : α → β) :
    StoreWork i s (r.andThen fun a s => .ok (f a) s).state := by
  cases r with
  | ok a m => exact h
  | err e m => exact h

theorem memRead_work (i : Instr) (slot : Slot) (s : State) : StoreWork i s (memRead slot s).state :=
  ⟨memRead_storeOnly slot s, fun h _ _ => by
    rcases memRead_cases slot s with ⟨_, hr⟩ | ⟨_, hr⟩ <;> rw [hr] <;> exact h.afterDraws 1⟩

/-! ## Operations that end with a burst -/

/-- In the state `m` that a burst of `g` starts from, a code to be returned has its successor committed for a profile
whose frame `g` is (R65). -/
def CarriesCommittedCode (m : State) (g : Frame) (v : Result) : Prop :=
  ∀ c, v = .code c → ∃ p ∈ m.config.profiles, ∃ cmd,
    g = buildFrame (BitVec.ofNat 24 p.id) cmd (frameCode c) ∧ m.store.read p.slot = .value (c + 1)

/-- Everything an operation that ends with a burst can do before its first `Emit`. -/
inductive BurstWork (i : Instr) (s : State) : Res (Frame × Result) → Prop
  | ready (g : Frame) (v : Result) (m : State) (work : StoreWork i s m) (run : s.phase = .run) (ok : v.IsOk)
      (durable : s.staged = [] → CarriesCommittedCode m g v) : BurstWork i s (.ok (g, v) m)
  | failed (e : ErrorRecord) (m : State) (work : StoreWork i s m) (operational : e.IsOperational) :
      BurstWork i s (.err e m)

theorem prepareTransmit_work (i : Instr) (g : Frame) (s : State) : BurstWork i s (prepareTransmit g s) := by
  unfold prepareTransmit ifAdmitted
  split
  next h =>
    have hrun : s.phase = .run := by
      simpa [admits, opTransmitBurst, opBuildFrame, opCurrentCode, opResetAll] using h
    exact .ready g .done s (.refl i s) hrun nofun fun _ c hc => by cases hc
  next => exact .failed _ s (.refl i s) ⟨nofun, nofun⟩

theorem prepareFor_work (i : Instr) {p : Profile} (cmd : Command) {s : State} (hrun : s.phase = .run)
    (hp : p ∈ s.config.profiles) : BurstWork i s (prepareFor p cmd s) := by
  have hends := takeAndAdvance_ends p.slot p.defaultCode s
  have hwork : StoreWork i s (takeAndAdvance p.slot p.defaultCode s).state :=
    ⟨takeAndAdvance_storeOnly _ _ s, fun h _ hcfg =>
      takeAndAdvance_sound h (defaultCode_lt_of_configCheck (hcfg hrun) hp)⟩
  unfold prepareFor
  cases hr : takeAndAdvance p.slot p.defaultCode s with
  | ok c m =>
    rw [hr] at hwork
    refine .ready _ _ m hwork hrun nofun fun hs c' hc => ?_
    cases hc
    obtain ⟨n, rfl, _, _⟩ := takeAndAdvance_ok hs hr
    exact ⟨p, hp, cmd, rfl, Memory.read_write_same _ _ _⟩
  | err e m =>
    rw [hr] at hwork hends
    exact .failed e m hwork hends

theorem prepareSend_work (i : Instr) (r : Nat) (cmd : Command) (s : State) : BurstWork i s (prepareSend r cmd s) := by
  rcases prepareSend_cases r cmd s with ⟨_, h⟩ | ⟨_, _, h⟩ | ⟨p, hrun, hp, h⟩ <;> rw [h]
  · exact .failed _ s (.refl i s) ⟨nofun, nofun⟩
  · exact .failed _ s (.refl i s) ⟨nofun, nofun⟩
  · exact prepareFor_work i cmd hrun (List.mem_of_getElem? hp)

theorem burstWork_work {i : Instr} {s : State} {r : Res (Frame × Result)} (h : burstWork i s = some r) :
    BurstWork i s r := by
  cases i <;> cases h
  case transmitBurst g => exact prepareTransmit_work _ g s
  all_goals exact prepareSend_work _ _ _ s

/-! ## The ends of an operation -/

/-- Everything an operation can do: after its store part it returns, raises, or sends a burst in RUN; and `RESET_ALL`
in STARTUP can fail and halt the block (R231, R236, log 17). -/
inductive OperationEnd (i : Instr) (s : State) : Host.Outcome State Fault Refusal → Prop
  | returned (v : Result) (m : State) (work : StoreWork i s m) (ok : v.IsOk) : OperationEnd i s (.next (m.returns v))
  | raised (e : ErrorRecord) (m : State) (work : StoreWork i s m) (operational : e.IsOperational) :
      OperationEnd i s (.next (m.raise e))
  | sent (g : Frame) (v : Result) (m : State) (work : StoreWork i s m) (run : s.phase = .run) (ok : v.IsOk) :
      OperationEnd i s (.next ((transmit g m).returns v))
  | resetFailed (l : List (Slot × Nat)) (e : ErrorRecord) (m : State) (work : StoreWork i s m) (instr : i = .resetAll l)
      (startup : s.phase = .startup) (storage : e.IsStorage) : OperationEnd i s (.next (haltWith e m))

theorem complete_end {i : Instr} {s : State} {r : Res Result} (hw : StoreWork i s r.state)
    (hr : r.Ends Result.IsOk ErrorRecord.IsOperational) : OperationEnd i s (complete r) := by
  cases r with
  | ok v m => exact .returned v m hw hr
  | err e m => exact .raised e m hw hr

theorem execBuildFrame_end (i : Instr) (rid : RemoteId) (cmd : Command) (code : CodeField) (s : State) :
    OperationEnd i s (execBuildFrame rid cmd code s) :=
  complete_end (StoreWork.ifAdmitted (.refl i s)) (ifAdmitted_ends _ s _ nofun)

theorem execCurrentCode_end (slot : Slot) (s : State) :
    OperationEnd (.currentCode slot) s (execCurrentCode slot s) :=
  complete_end ((memRead_work _ slot s).andThen_ok _).ifAdmitted
    (ifAdmitted_ends _ s _ ((memRead_ends slot s).operational.andThen fun _ _ _ => nofun))

theorem execTakeAndAdvance_end (slot : Slot) (d : Nat) (s : State) :
    OperationEnd (.takeAndAdvance slot d) s (execTakeAndAdvance slot d s) := by
  have hwork : StoreWork (.takeAndAdvance slot d) s (takeAndAdvance slot d s).state :=
    ⟨takeAndAdvance_storeOnly slot d s, fun h hfit _ => takeAndAdvance_sound h (by simpa [Instr.wellFormed] using hfit)⟩
  exact complete_end (hwork.andThen_ok _).ifAdmitted
    (ifAdmitted_ends _ s _ ((takeAndAdvance_ends slot d s).andThen fun _ _ _ => nofun))

theorem execResetAll_end (l : List (Slot × Nat)) (s : State) : OperationEnd (.resetAll l) s (execResetAll l s) := by
  have hwork : StoreWork (.resetAll l) s (resetEach l s).state :=
    ⟨resetEach_storeOnly l s, fun h hfit _ => resetEach_sound h (by simpa [Instr.wellFormed] using hfit)⟩
  have hends := resetEach_ends l s
  unfold execResetAll
  split
  next hadm =>
    obtain ⟨hstart, _⟩ : s.phase = .startup ∧ s.config.resetReq = true := by
      simpa [admits, opResetAll, opBuildFrame, opCurrentCode] using hadm
    cases hr : resetEach l s with
    | ok u m => rw [hr] at hwork; exact .returned .done m hwork nofun
    | err e m => rw [hr] at hwork hends; exact .resetFailed l e m hwork rfl hstart hends
  next => exact .raised _ s (.refl _ s) ⟨nofun, nofun⟩

theorem finishBurst_end {i : Instr} {s : State} {r : Res (Frame × Result)} (h : BurstWork i s r) :
    OperationEnd i s (.next (finishBurst r)) := by
  cases h with
  | ready g v m work run ok _ => exact .sent g v m work run ok
  | failed e m work operational => exact .raised e m work operational

theorem exec_end (i : Instr) (s : State) : OperationEnd i s (exec i s) := by
  cases hb : burstWork i s with
  | some r => rw [exec_of_burstWork hb]; exact finishBurst_end (burstWork_work hb)
  | none =>
    cases i <;> try contradiction
    case buildFrame rid cmd code => exact execBuildFrame_end _ rid cmd code s
    case currentCode slot => exact execCurrentCode_end slot s
    case takeAndAdvance slot d => exact execTakeAndAdvance_end slot d s
    case resetAll l => exact execResetAll_end l s
    case reservedSelector op => exact .raised _ s (.refl _ s) ⟨nofun, nofun⟩
    case up rid code => exact execBuildFrame_end _ rid .up code s
    case stop rid code => exact execBuildFrame_end _ rid .stop code s
    case down rid code => exact execBuildFrame_end _ rid .down code s
    case prog rid code => exact execBuildFrame_end _ rid .prog code s

/-- An operation always ends, in a next state (R29). -/
theorem exec_next (i : Instr) (s : State) : ∃ t, exec i s = .next t := by
  have h := exec_end i s
  generalize exec i s = o at h
  cases h <;> exact ⟨_, rfl⟩

/-- Settles O42, by the four ends of an operation. -/
theorem everyOperationReturnsOkOrOneRecordedError : Obligations.EveryOperationReturnsOkOrOneRecordedError := by
  intro i s
  have h := exec_end i s
  generalize exec i s = o at h
  cases h with
  | returned v m work ok => exact ⟨_, rfl, .inl ⟨v, rfl, ok, work.storeOnly.errlog⟩⟩
  | sent g v m work _ ok =>
    exact ⟨_, rfl, .inl ⟨v, rfl, ok, by rw [returns_errlog, transmit_eq]; exact work.storeOnly.errlog⟩⟩
  | raised e m work operational =>
    obtain ⟨hl, ht, htx, he⟩ : m.line = s.line ∧ m.trace = s.trace ∧ m.tx = s.tx ∧ m.errlog = s.errlog :=
      ⟨work.storeOnly.line, work.storeOnly.trace, work.storeOnly.tx, work.storeOnly.errlog⟩
    exact ⟨_, rfl, .inr ⟨e, rfl, by rw [raise_errlog, he], rfl, ht, hl, htx, operational.1, operational.2⟩⟩
  | resetFailed l e m work _ _ storage =>
    obtain ⟨hl, ht, htx, he⟩ : m.line = s.line ∧ m.trace = s.trace ∧ m.tx = s.tx ∧ m.errlog = s.errlog :=
      ⟨work.storeOnly.line, work.storeOnly.trace, work.storeOnly.tx, work.storeOnly.errlog⟩
    obtain ⟨hne, hcfg⟩ := storage.isOperational
    exact ⟨_, rfl, .inr ⟨e, rfl, by rw [haltWith_errlog, he], rfl, ht, hl, htx, hne, hcfg⟩⟩

/-- Settles O43, by the four ends of an operation: each keeps what the store part keeps, and only a failed `RESET_ALL`
sets a phase. -/
theorem operationsNeverWriteConfigAndRarelyPhase : Obligations.OperationsNeverWriteConfigAndRarelyPhase := by
  intro i s t hx
  have h := exec_end i s
  rw [hx] at h
  have hkept : ∀ {m}, StoreWork i s m → m.config = s.config ∧ m.codeWidth = s.codeWidth ∧ m.inbox = s.inbox ∧
      m.burstResult = s.burstResult := fun work =>
    ⟨work.storeOnly.config, work.storeOnly.codeWidth, work.storeOnly.inbox, work.storeOnly.burstResult⟩
  cases h with
  | returned v m work _ =>
    obtain ⟨hc, hw, hi, hb⟩ := hkept work
    exact ⟨hc, hw, hi, hb, .inl work.storeOnly.phase⟩
  | raised e m work _ =>
    obtain ⟨hc, hw, hi, hb⟩ := hkept work
    exact ⟨hc, hw, hi, hb, .inl work.storeOnly.phase⟩
  | sent g v m work _ _ =>
    obtain ⟨hc, hw, hi, hb⟩ := hkept work
    rw [transmit_eq]
    exact ⟨hc, hw, hi, hb, .inl work.storeOnly.phase⟩
  | resetFailed l e m work instr startup storage =>
    obtain ⟨hc, hw, hi, hb⟩ := hkept work
    obtain ⟨stage, slot, rfl⟩ := storage
    exact ⟨hc, hw, hi, hb, .inr ⟨startup, rfl, ⟨l, instr⟩, stage, slot, rfl⟩⟩

end Sys2Proof.Machine
end

section
/-! SUPPORT. The block's invariant: what keeps it in a state with no burst, along a burst, and over each event. -/

namespace Sys2Proof.Machine

/-! ## Traces of whole bursts -/

theorem levelAfter_append (trace : List Segment) (seg : Segment) : levelAfter (trace ++ [seg]) = seg.level := by
  simp [levelAfter]

theorem getLast_burst (g : Frame) : (burst g).getLast? = some ⟨.low, 30415⟩ := by
  simp [burst, getLast_frameSegments]

/-- After whole bursts the line is LOW (R184). -/
theorem levelAfter_bursts (sent : List Frame) : levelAfter (sent.flatMap burst) = .low := by
  cases sent using List.reverseRec with
  | nil => rfl
  | append_singleton sent g => simp [levelAfter, getLast_burst]

/-- One segment more of transmission k has been emitted. -/
theorem emittedBefore_succ {g : Frame} {k : Fin 3} {j : Nat} {seg : Segment} (h : (segmentsAt g k)[j]? = some seg) :
    emittedBefore g k (j + 1) = emittedBefore g k j ++ [seg] := by
  simp [emittedBefore, List.take_add_one, h]

/-- All of transmission 0 has been emitted where transmission 1 begins, and so on to the burst's end. -/
theorem emittedBefore_one (g : Frame) : emittedBefore g 1 0 = emittedBefore g 0 (segmentsAt g 0).length := by
  simp [emittedBefore]

theorem emittedBefore_two (g : Frame) : emittedBefore g 2 0 = emittedBefore g 1 (segmentsAt g 1).length := by
  simp [emittedBefore]

theorem burst_eq_emittedBefore (g : Frame) : burst g = emittedBefore g 2 (segmentsAt g 2).length := by
  simp [emittedBefore, burst, segmentsAt]

theorem segmentsAt_nonempty (g : Frame) (k : Fin 3) : 0 < (segmentsAt g k).length := by
  rw [length_segmentsAt]; split <;> decide

/-- The last segment of a transmission is the silence (R172). -/
theorem level_of_last {g : Frame} {k : Fin 3} {j : Nat} {seg : Segment} (h : (segmentsAt g k)[j]? = some seg)
    (hlast : ¬ j + 1 < (segmentsAt g k).length) : seg.level = .low := by
  have hj : j < (segmentsAt g k).length := (List.getElem?_eq_some_iff.1 h).1
  have hsil : (segmentsAt g k)[j]? = some ⟨.low, 30415⟩ := by
    rw [← getLast_frameSegments g (decide (k = 0)), List.getLast?_eq_getElem?]
    exact congrArg ((segmentsAt g k)[·]?) (by unfold segmentsAt at *; omega)
  rw [hsil] at h
  cases h; rfl

/-! ## The invariant with no burst running -/

/-- With no burst running the invariant is a sound store, the line LOW after whole bursts, and what R21 and R222 ask of
the phases. -/
theorem BlockInvariant.of_idle {s : State} (ht : s.tx = .idle) (hw : 16 ≤ s.codeWidth) (hs : StoreSound s)
    (hl : s.line = .low) (hb : s.burstResult = none) (htr : ∃ sent : List Frame, s.trace = sent.flatMap burst)
    (hr : s.phase = .run → configCheck s.codeWidth s.config = none) (hq : s.phase ≠ .run → s.trace = []) :
    BlockInvariant s where
  width := hw
  canonical := hs.canonical
  cellsFit := hs.fits
  nothingStaged := hs.nothingStaged
  lineFollowsTrace := by
    obtain ⟨sent, htr⟩ := htr
    rw [hl, htr, levelAfter_bursts]
  idleIsLow := fun _ => ⟨hl, hb⟩
  busyIsLegal := fun g k j hbusy => by rw [ht] at hbusy; cases hbusy
  wholeBursts := by rw [ht]; exact htr
  durable := fun g k j c hbusy => by rw [ht] at hbusy; cases hbusy
  runIsConfigured := hr
  quietOutsideRun := hq

variable {s m : State}

theorem BlockInvariant.storeSound (h : BlockInvariant s) : StoreSound s := ⟨h.canonical, h.cellsFit, h.nothingStaged⟩

theorem BlockInvariant.idle_trace (h : BlockInvariant s) (ht : s.tx = .idle) :
    ∃ sent : List Frame, s.trace = sent.flatMap burst := by
  simpa only [ht, traceShape] using h.wholeBursts

/-- The invariant does not read the errors and results, the events to come and the draws. -/
theorem BlockInvariant.of_outside (h : BlockInvariant s) (errlog : List ErrorRecord) (result : Option Result)
    (inbox : List Event) (draws : List Bool) (drawCount : Nat) :
    BlockInvariant { s with
      errlog := errlog, result := result, inbox := inbox, draws := draws, drawCount := drawCount } :=
  ⟨h.width, h.canonical, h.cellsFit, h.nothingStaged, h.lineFollowsTrace, h.idleIsLow, h.busyIsLegal, h.wholeBursts,
    h.durable, h.runIsConfigured, h.quietOutsideRun⟩

theorem BlockInvariant.raise (h : BlockInvariant s) (e : ErrorRecord) : BlockInvariant (s.raise e) := by
  unfold State.raise
  rw [← h.nothingStaged]
  exact h.of_outside _ _ _ _ _

theorem BlockInvariant.storeOnly (h : BlockInvariant s) (ht : s.tx = .idle) (hm : StoreOnly s m) (hs : StoreSound m) :
    BlockInvariant m := by
  obtain ⟨hl, hb⟩ := h.idleIsLow ht
  refine .of_idle (hm.tx.trans ht) ?_ hs (hm.line.trans hl) (hm.burstResult.trans hb) ?_ ?_ ?_
  · rw [hm.codeWidth]; exact h.width
  · rw [hm.trace]; exact h.idle_trace ht
  · rw [hm.phase, hm.codeWidth, hm.config]; exact h.runIsConfigured
  · rw [hm.phase, hm.trace]; exact h.quietOutsideRun

/-- Outside RUN nothing was sent, so the block may halt. -/
theorem BlockInvariant.halted (h : BlockInvariant s) (ht : s.tx = .idle) (hp : s.phase ≠ .run) :
    BlockInvariant { s with phase := .halted } := by
  obtain ⟨hl, hb⟩ := h.idleIsLow ht
  exact .of_idle ht h.width ⟨h.canonical, h.cellsFit, h.nothingStaged⟩ hl hb
    (h.idle_trace ht) nofun fun _ => h.quietOutsideRun hp

theorem BlockInvariant.enters_run (h : BlockInvariant s) (ht : s.tx = .idle)
    (hc : configCheck s.codeWidth s.config = none) : BlockInvariant { s with phase := .run } := by
  obtain ⟨hl, hb⟩ := h.idleIsLow ht
  exact .of_idle ht h.width ⟨h.canonical, h.cellsFit, h.nothingStaged⟩ hl hb
    (h.idle_trace ht) (fun _ => hc) (absurd rfl)

theorem BlockInvariant.transmit (h : BlockInvariant s) (ht : s.tx = .idle) (hp : s.phase = .run) (g : Frame) :
    BlockInvariant (transmit g s) := by
  obtain ⟨sent, htr⟩ := h.idle_trace ht
  rw [transmit_eq]
  exact .of_idle rfl h.width ⟨h.canonical, h.cellsFit, h.nothingStaged⟩ rfl (h.idleIsLow ht).2
    ⟨sent ++ [g], by simp [htr]⟩ h.runIsConfigured (absurd hp)

/-- A restart makes the invariant true from any state whose store is sound (R250). -/
theorem restart_blockInvariant (cfg : Configuration) (hw : 16 ≤ s.codeWidth) (hs : StoreSound s) :
    BlockInvariant (restart cfg s) :=
  .of_idle rfl hw ⟨hs.canonical, hs.fits, rfl⟩ rfl rfl ⟨[], rfl⟩ nofun fun _ => rfl

/-! ## The invariant along a burst -/

theorem BlockInvariant.startBurst (h : BlockInvariant s) (ht : s.tx = .idle) (hp : s.phase = .run) {g : Frame}
    {v : Result} (hd : CarriesCommittedCode s g v) :
    BlockInvariant { s with tx := .busy g 0 0, burstResult := some v } where
  width := h.width
  canonical := h.canonical
  cellsFit := h.cellsFit
  nothingStaged := h.nothingStaged
  lineFollowsTrace := h.lineFollowsTrace
  idleIsLow := nofun
  busyIsLegal := fun _ _ _ hb => by cases hb; exact ⟨segmentsAt_nonempty g 0, hp, rfl⟩
  wholeBursts := by
    obtain ⟨sent, htr⟩ := h.idle_trace ht
    exact ⟨sent, by simp [htr, emittedBefore]⟩
  durable := fun _ _ _ c hb hc => by
    cases hb
    exact hd c (Option.some.inj hc)
  runIsConfigured := h.runIsConfigured
  quietOutsideRun := h.quietOutsideRun

/-- One segment passes and the burst goes on at a position before which exactly that segment more was emitted. -/
theorem BlockInvariant.emit_then_busy (h : BlockInvariant s) {g : Frame} {k k' : Fin 3} {j j' : Nat} {seg : Segment}
    (ht : s.tx = .busy g k j) (hj : j' < (segmentsAt g k').length)
    (he : emittedBefore g k' j' = emittedBefore g k j ++ [seg]) :
    BlockInvariant { emit seg s with tx := .busy g k' j' } where
  width := h.width
  canonical := h.canonical
  cellsFit := h.cellsFit
  nothingStaged := h.nothingStaged
  lineFollowsTrace := (levelAfter_append s.trace seg).symm
  idleIsLow := nofun
  busyIsLegal := fun _ _ _ hb => by cases hb; exact ⟨hj, (h.busyIsLegal g k j ht).2⟩
  wholeBursts := by
    obtain ⟨sent, htr⟩ := h.wholeBursts
    simp only [ht] at htr
    exact ⟨sent, by simp [emit, htr, he]⟩
  durable := fun _ _ _ c hb hc => by cases hb; exact h.durable g k j c ht hc
  runIsConfigured := h.runIsConfigured
  quietOutsideRun := fun hp => absurd (h.busyIsLegal g k j ht).2.1 hp

/-- The last segment passes and the burst is whole. -/
theorem BlockInvariant.emit_then_endBurst (h : BlockInvariant s) {g : Frame} {k : Fin 3} {j : Nat} {seg : Segment}
    (ht : s.tx = .busy g k j) (hl : seg.level = .low) (he : burst g = emittedBefore g k j ++ [seg]) :
    BlockInvariant (endBurst (emit seg s)) := by
  refine .of_idle rfl h.width ⟨h.canonical, h.cellsFit, h.nothingStaged⟩ hl rfl ?_ h.runIsConfigured
    fun hp => absurd (h.busyIsLegal g k j ht).2.1 hp
  obtain ⟨sent, htr⟩ := h.wholeBursts
  simp only [ht] at htr
  exact ⟨sent ++ [g], by simp [emit, htr, he]⟩

theorem BlockInvariant.advanceTx (h : BlockInvariant s) {g : Frame} {k : Fin 3} {j : Nat} {seg : Segment}
    (ht : s.tx = .busy g k j) (hseg : (segmentsAt g k)[j]? = some seg) :
    BlockInvariant (advanceTx g k j (emit seg s)) := by
  unfold Machine.advanceTx
  have hsucc := emittedBefore_succ hseg
  split
  next hnext => exact h.emit_then_busy ht hnext hsucc
  next hlast =>
    have hj : j + 1 = (segmentsAt g k).length := by
      have := (List.getElem?_eq_some_iff.1 hseg).1
      omega
    rw [hj] at hsucc
    split
    next hk => subst hk; exact h.emit_then_busy ht (segmentsAt_nonempty g 1) ((emittedBefore_one g).trans hsucc)
    next hk0 =>
      split
      next hk => subst hk; exact h.emit_then_busy ht (segmentsAt_nonempty g 2) ((emittedBefore_two g).trans hsucc)
      next hk1 =>
        obtain rfl : k = 2 := by omega
        exact h.emit_then_endBurst ht (level_of_last hseg hlast) ((burst_eq_emittedBefore g).trans hsucc)

theorem segmentStep_keeps_blockInvariant {t : State} (h : BlockInvariant s) {g : Frame} {k : Fin 3} {j : Nat}
    (ht : s.tx = .busy g k j) (hx : segmentStep g k j s = .next t) : BlockInvariant t := by
  rcases segmentStep_cases g k j s with ⟨seg, hseg, he⟩ | ⟨_, he⟩ <;> rw [he] at hx <;> cases hx
  exact h.advanceTx ht hseg

/-! ## The invariant over an event -/

variable {t : State}

theorem StoreWork.blockInvariant {i : Instr} (hm : StoreWork i s m) (h : BlockInvariant s) (ht : s.tx = .idle)
    (hw : i.wellFormed s.codeWidth = true) : BlockInvariant m :=
  h.storeOnly ht hm.storeOnly (hm.sound h.storeSound hw h.runIsConfigured)

theorem exec_keeps_blockInvariant {i : Instr} (h : BlockInvariant s) (ht : s.tx = .idle)
    (hw : i.wellFormed s.codeWidth = true) (hx : exec i s = .next t) : BlockInvariant t := by
  have hend := exec_end i s
  rw [hx] at hend
  cases hend with
  | returned v m work _ => exact (work.blockInvariant h ht hw).of_outside _ _ _ _ _
  | raised e m work _ => exact (work.blockInvariant h ht hw).raise e
  | sent g v m work run _ =>
    have hm := work.blockInvariant h ht hw
    exact (hm.transmit (work.storeOnly.tx.trans ht) (work.storeOnly.phase.trans run) g).of_outside _ _ _ _ _
  | resetFailed l e m work _ startup _ =>
    have hm := (work.blockInvariant h ht hw).raise e
    refine hm.halted (work.storeOnly.tx.trans ht) ?_
    rw [raise_phase, work.storeOnly.phase, startup]; nofun

theorem execStepwise_keeps_blockInvariant {i : Instr} (h : BlockInvariant s) (ht : s.tx = .idle)
    (hw : i.wellFormed s.codeWidth = true) (hx : execStepwise i s = .next t) : BlockInvariant t := by
  unfold execStepwise at hx
  cases hb : burstWork i s with
  | none => rw [hb] at hx; exact exec_keeps_blockInvariant h ht hw hx
  | some r =>
    rw [hb] at hx; cases hx
    cases burstWork_work hb with
    | ready g v m work run _ durable =>
      exact (work.blockInvariant h ht hw).startBurst (work.storeOnly.tx.trans ht) (work.storeOnly.phase.trans run)
        (durable h.nothingStaged)
    | failed e m work _ => exact (work.blockInvariant h ht hw).raise e

/-- Everything a request that is not refused can do: the instruction it names, or the error of a malformed payload. -/
theorem serveWith_next {body : Instr → State → Host.Outcome State Fault Refusal} {req : Request}
    (hx : serveWith body req s = .next t) :
    (∃ i, i.wellFormed s.codeWidth = true ∧ body i s = .next t) ∨
    ∃ bytes, t = s.raise (.malformedCommand (.payload bytes)) := by
  unfold serveWith at hx
  split at hx
  next why _ =>
    cases why <;> cases hx
    exact .inr ⟨_, rfl⟩
  next i _ =>
    split at hx
    next hw => exact .inl ⟨i, hw, hx⟩
    next => cases hx

theorem serveWith_keeps_blockInvariant {body : Instr → State → Host.Outcome State Fault Refusal} {req : Request}
    (hbody : ∀ {i}, i.wellFormed s.codeWidth = true → body i s = .next t → BlockInvariant t) (h : BlockInvariant s)
    (hx : serveWith body req s = .next t) : BlockInvariant t := by
  rcases serveWith_next hx with ⟨i, hw, hi⟩ | ⟨bytes, rfl⟩
  · exact hbody hw hi
  · exact h.raise _

theorem haltWith_keeps_blockInvariant (h : BlockInvariant s) (ht : s.tx = .idle) (hp : s.phase = .startup)
    (e : ErrorRecord) : BlockInvariant (haltWith e s) :=
  (h.raise e).halted ht (by rw [raise_phase, hp]; nofun)

theorem boot_keeps_blockInvariant (h : BlockInvariant s) (ht : s.tx = .idle) : BlockInvariant (boot s) := by
  unfold boot
  split
  next hp =>
    rcases bootSequence_cases s with ⟨reason, r1, r2, _, he⟩ | ⟨hc, _, he⟩ | ⟨hc, _, he⟩ <;> rw [he]
    · exact haltWith_keeps_blockInvariant h ht hp _
    · exact h.enters_run ht hc
    · have hfit : ∀ sd ∈ profileDefaults s.config, sd.2 < 2 ^ s.codeWidth := by
        intro sd hsd
        obtain ⟨p, hp, rfl⟩ := List.mem_map.1 hsd
        exact defaultCode_lt_of_configCheck hc hp
      have hm := resetEach_storeOnly (profileDefaults s.config) s
      have hinv := h.storeOnly ht hm (resetEach_sound h.storeSound hfit)
      cases hr : resetEach (profileDefaults s.config) s with
      | ok u m =>
        rw [hr] at hm hinv
        exact hinv.enters_run (hm.tx.trans ht) (by rw [← hm.codeWidth, ← hm.config] at hc; exact hc)
      | err e m =>
        rw [hr] at hm hinv
        exact haltWith_keeps_blockInvariant hinv (hm.tx.trans ht) (hm.phase.trans hp) e
  next => exact h

/-- A cut leaves the invariant where the uncut work would: the restart keeps only the store (log 16). -/
theorem afterCut_keeps_blockInvariant {cfg : Configuration} {o : Host.Outcome State Fault Refusal}
    (ho : ∀ u, o = .next u → BlockInvariant u) (hx : afterCut cfg s o = .next t) : BlockInvariant t := by
  cases o with
  | next u =>
    cases hx
    exact restart_blockInvariant cfg (ho u rfl).width ((ho u rfl).of_outside _ _ _ _ _).storeSound
  | fault f => cases hx
  | refused r => cases hx

theorem handleEvent_keeps_blockInvariant {e : Event} (h : BlockInvariant s) (ht : s.tx = .idle)
    (hx : handleEvent e s = .next t) : BlockInvariant t := by
  cases e with
  | operation req => exact serveWith_keeps_blockInvariant (exec_keeps_blockInvariant h ht) h hx
  | stepwise req => exact serveWith_keeps_blockInvariant (execStepwise_keeps_blockInvariant h ht) h hx
  | tick => cases hx; exact h
  | boot => cases hx; exact boot_keeps_blockInvariant h ht
  | restart cfg => cases hx; exact restart_blockInvariant cfg h.width h.storeSound
  | restartInOperation req n cfg =>
    have hd : BlockInvariant { s with draws := cutDraws n } := h.of_outside _ _ _ _ _
    exact afterCut_keeps_blockInvariant
      (fun u hu => serveWith_keeps_blockInvariant (exec_keeps_blockInvariant hd ht) hd hu) hx
  | restartInBoot n cfg =>
    have hd : BlockInvariant { s with draws := cutDraws n } := h.of_outside _ _ _ _ _
    have hb := boot_keeps_blockInvariant hd ht
    exact afterCut_keeps_blockInvariant (o := .next _) (fun u hu => by cases hu; exact hb) hx

/-- Settles O57, by the five kinds of move: the boot sequence, an event, a restart in a burst, and one segment with and
without a tick. -/
theorem everyMoveKeepsTheBlockInvariant : Obligations.EveryMoveKeepsTheBlockInvariant := by
  intro s t h hx
  have hin : ∀ rest, BlockInvariant { s with inbox := rest } := fun rest => h.of_outside _ _ _ _ _
  rcases step_cases s with ⟨ht, _, he⟩ | ⟨e, rest, ht, _, he⟩ | ⟨g, k, j, cfg, rest, _, _, he⟩ |
    ⟨g, k, j, rest, ht, _, he⟩ | ⟨g, k, j, ht, _, he⟩ <;> rw [he] at hx
  · cases hx; exact boot_keeps_blockInvariant h ht
  · exact handleEvent_keeps_blockInvariant (hin rest) ht hx
  · cases hx; exact restart_blockInvariant cfg h.width (hin rest).storeSound
  · exact segmentStep_keeps_blockInvariant (hin rest) ht hx
  · exact segmentStep_keeps_blockInvariant h ht hx

/-- Settles O56: the empty store is sound and nothing has been sent. -/
theorem blockInvariantAtReset : Obligations.BlockInvariantAtReset :=
  .of_idle rfl (Nat.le_refl 16) ⟨reset_store_wf, rfl, rfl⟩ rfl rfl ⟨[], rfl⟩ nofun fun _ => rfl

end Sys2Proof.Machine
end

section
/-! SUPPORT. Canonical stores as sets of entries, and the settling of the statement about them. -/

namespace Sys2Proof.Machine

/-- The canonical form is the sorted one: every slot lies below every later one. -/
theorem Memory.wf_iff_pairwise (m : Memory) :
    m.wf = true ↔ List.Pairwise (fun x y : Slot × Nat => x.1 < y.1) m := by
  have : IsTrans (Slot × Nat) (fun x y => x.1 < y.1) := ⟨fun _ _ _ h h' => Nat.lt_trans h h'⟩
  rw [← List.isChain_iff_pairwise]
  induction m with
  | nil => simp [Memory.wf]
  | cons x m ih =>
    cases m with
    | nil => simp [Memory.wf]
    | cons y m => simp only [Memory.wf, Bool.and_eq_true, decide_eq_true_eq, ih, List.isChain_cons_cons]

/-- What a slot of a canonical store reads as says whether an entry is listed. -/
theorem Memory.read_eq_value_iff {m : Memory} (h : m.wf = true) (a : Slot) (v : Nat) :
    m.read a = .value v ↔ (a, v) ∈ m := by
  rw [Memory.wf_iff_pairwise] at h
  induction m with
  | nil => simp
  | cons x m ih =>
    obtain ⟨t, w⟩ := x
    obtain ⟨hx, hm⟩ := List.pairwise_cons.1 h
    by_cases ha : a = t
    · subst ha
      have hnot : (a, v) ∉ m := fun hmem => Nat.lt_irrefl a (hx (a, v) hmem)
      simp [Memory.read, hnot, eq_comm]
    · simp [Memory.read, ha, ih hm]

/-- Settles O14: read alike, the two stores list the same entries, and a sorted list is determined by its entries. -/
theorem canonicalStoresThatReadAlikeAreEqual : Obligations.CanonicalStoresThatReadAlikeAreEqual := by
  intro m m' h h' hread
  have : Std.Irrefl fun x y : Slot × Nat => x.1 < y.1 := ⟨fun x => Nat.lt_irrefl x.1⟩
  have : Std.Antisymm fun x y : Slot × Nat => x.1 < y.1 :=
    ⟨fun _ _ hxy hyx => absurd (Nat.lt_trans hxy hyx) (Nat.lt_irrefl _)⟩
  refine List.Pairwise.eq_of_mem_iff ((Memory.wf_iff_pairwise m).1 h) ((Memory.wf_iff_pairwise m').1 h') ?_
  rintro ⟨a, v⟩
  rw [← Memory.read_eq_value_iff h, ← Memory.read_eq_value_iff h', hread]

end Sys2Proof.Machine
end

section
/-! SUPPORT. No operation reads a routing key or a travel time (R22): every statement commutes with putting other
profiles in the configuration that agree on what the block reads. -/

namespace Sys2Proof.Machine

/-- The state with other profiles in its configuration. -/
def State.withProfiles (ps : List Profile) (s : State) : State := { s with config := { s.config with profiles := ps } }

/-- A statement's end with other profiles in the state's configuration. -/
def Res.withProfiles {α : Type} (ps : List Profile) : Res α → Res α
  | .ok a s => .ok a (s.withProfiles ps)
  | .err e s => .err e (s.withProfiles ps)

/-- What the block reads of a profile: `id`, `defaultCode` and `slot` (R22). -/
def profileRead (p : Profile) : Nat × Nat × Slot := (p.id, p.defaultCode, p.slot)

variable (ps : List Profile) (s : State)

@[simp] theorem Res.withProfiles_ok {α : Type} (a : α) :
    (Res.ok a s).withProfiles ps = .ok a (s.withProfiles ps) := rfl

@[simp] theorem Res.withProfiles_err {α : Type} (e : ErrorRecord) :
    (Res.err e s : Res α).withProfiles ps = .err e (s.withProfiles ps) := rfl

theorem Res.withProfiles_andThen {α β : Type} {r : Res α} {f f' : α → State → Res β}
    (hf : ∀ a m, f' a (m.withProfiles ps) = (f a m).withProfiles ps) :
    (r.withProfiles ps).andThen f' = (r.andThen f).withProfiles ps := by
  cases r with
  | ok a m => exact hf a m
  | err e m => rfl

theorem memRead_withProfiles (slot : Slot) :
    memRead slot (s.withProfiles ps) = (memRead slot s).withProfiles ps := by
  unfold memRead
  rw [apply_ite (Res.withProfiles ps)]; rfl

theorem memWrite_withProfiles (slot : Slot) (v : Nat) :
    memWrite slot v (s.withProfiles ps) = (memWrite slot v s).withProfiles ps := by
  unfold memWrite
  rw [apply_ite (Res.withProfiles ps)]; rfl

theorem memCommit_withProfiles (slot : Slot) :
    memCommit slot (s.withProfiles ps) = (memCommit slot s).withProfiles ps := by
  unfold memCommit
  rw [apply_ite (Res.withProfiles ps)]; rfl

theorem writeDurably_withProfiles (slot : Slot) (v : Nat) :
    writeDurably slot v (s.withProfiles ps) = (writeDurably slot v s).withProfiles ps := by
  unfold writeDurably
  rw [memWrite_withProfiles]
  exact Res.withProfiles_andThen ps fun _ m => memCommit_withProfiles ps m slot

theorem resetEach_withProfiles (l : List (Slot × Nat)) :
    resetEach l (s.withProfiles ps) = (resetEach l s).withProfiles ps := by
  induction l generalizing s with
  | nil => rfl
  | cons x l ih =>
    unfold resetEach
    rw [writeDurably_withProfiles]
    exact Res.withProfiles_andThen ps fun _ m => ih m

theorem takenCode_withProfiles (slot : Slot) (d : Nat) (cell : Cell) :
    takenCode slot d cell (s.withProfiles ps) = (takenCode slot d cell s).withProfiles ps := by
  cases cell with
  | absent =>
    unfold takenCode
    rw [writeDurably_withProfiles]
    exact Res.withProfiles_andThen ps fun _ _ => rfl
  | value v => rfl

theorem advance_withProfiles (slot : Slot) (c : Nat) :
    advance slot c (s.withProfiles ps) = (advance slot c s).withProfiles ps := by
  unfold advance
  rw [writeDurably_withProfiles, apply_ite (Res.withProfiles ps)]
  exact congrArg (ite _ _) (Res.withProfiles_andThen ps fun _ _ => rfl)

theorem takeAndAdvance_withProfiles (slot : Slot) (d : Nat) :
    takeAndAdvance slot d (s.withProfiles ps) = (takeAndAdvance slot d s).withProfiles ps := by
  unfold takeAndAdvance
  rw [memRead_withProfiles]
  refine Res.withProfiles_andThen ps fun cell m => ?_
  rw [takenCode_withProfiles]
  exact Res.withProfiles_andThen ps fun c m => advance_withProfiles ps m slot c

/-- The phase test reads the phase and `RESET_REQ`, which profiles do not touch. -/
theorem ifAdmitted_withProfiles {α : Type} (op : Byte) {body body' : State → Res α}
    (hb : body' (s.withProfiles ps) = (body s).withProfiles ps) :
    ifAdmitted op (s.withProfiles ps) body' = (ifAdmitted op s body).withProfiles ps := by
  unfold ifAdmitted
  rw [hb, apply_ite (Res.withProfiles ps)]
  rfl

theorem prepareFor_withProfiles {p q : Profile} (hpq : profileRead q = profileRead p) (cmd : Command) :
    prepareFor q cmd (s.withProfiles ps) = (prepareFor p cmd s).withProfiles ps := by
  obtain ⟨hid, hd, hslot⟩ : q.id = p.id ∧ q.defaultCode = p.defaultCode ∧ q.slot = p.slot := by
    simpa [profileRead] using hpq
  unfold prepareFor
  rw [hid, hd, hslot, takeAndAdvance_withProfiles]
  exact Res.withProfiles_andThen ps fun _ _ => rfl

variable {ps s}

theorem prepareSend_withProfiles (hps : ps.map profileRead = s.config.profiles.map profileRead) (r : Nat)
    (cmd : Command) : prepareSend r cmd (s.withProfiles ps) = (prepareSend r cmd s).withProfiles ps := by
  unfold prepareSend
  refine ifAdmitted_withProfiles ps s _ ?_
  have hr : ps[r]?.map profileRead = s.config.profiles[r]?.map profileRead := by
    simpa only [List.getElem?_map] using congrArg (·[r]?) hps
  show (match ps[r]? with
    | some p => prepareFor p cmd (s.withProfiles ps)
    | none => .err (.malformedCommand (.remote r)) (s.withProfiles ps)) = _
  cases hq : ps[r]? with
  | none =>
    have hp : s.config.profiles[r]? = none := by simpa [hq] using hr.symm
    simp only [hp]; rfl
  | some q =>
    obtain ⟨p, hp, hpq⟩ : ∃ p, s.config.profiles[r]? = some p ∧ profileRead p = profileRead q := by
      simpa [hq] using hr.symm
    simp only [hp]; exact prepareFor_withProfiles ps s hpq.symm cmd

theorem burstWork_withProfiles (hps : ps.map profileRead = s.config.profiles.map profileRead) (i : Instr) :
    burstWork i (s.withProfiles ps) = (burstWork i s).map (Res.withProfiles ps) := by
  cases i
  case transmitBurst g => exact congrArg some (ifAdmitted_withProfiles ps s _ rfl)
  case sendCommand r cmd => exact congrArg some (prepareSend_withProfiles hps r cmd)
  case sendU r => exact congrArg some (prepareSend_withProfiles hps r .up)
  case sendS r => exact congrArg some (prepareSend_withProfiles hps r .stop)
  case sendD r => exact congrArg some (prepareSend_withProfiles hps r .down)
  case sendP r => exact congrArg some (prepareSend_withProfiles hps r .prog)
  all_goals rfl

theorem finish_withProfiles (r : Res Result) : (r.withProfiles ps).finish = r.finish.withProfiles ps := by
  cases r <;> rfl

theorem finishReset_withProfiles (r : Res Unit) :
    finishReset (r.withProfiles ps) = (finishReset r).withProfiles ps := by
  cases r <;> rfl

theorem finishBurst_withProfiles (r : Res (Frame × Result)) :
    finishBurst (r.withProfiles ps) = (finishBurst r).withProfiles ps := by
  cases r with
  | ok gv m => simp only [Res.withProfiles, finishBurst, transmit_eq]; rfl
  | err e m => rfl

theorem complete_withProfiles (op : Byte) {body body' : State → Res Result}
    (hb : body' (s.withProfiles ps) = (body s).withProfiles ps) :
    complete (ifAdmitted op (s.withProfiles ps) body') = .next ((ifAdmitted op s body).finish.withProfiles ps) := by
  unfold complete
  rw [ifAdmitted_withProfiles ps s op hb, finish_withProfiles]

theorem execResetAll_withProfiles {l : List (Slot × Nat)} {t : State} (hx : execResetAll l s = .next t) :
    execResetAll l (s.withProfiles ps) = .next (t.withProfiles ps) := by
  cases hx
  unfold execResetAll
  rw [resetEach_withProfiles, finishReset_withProfiles, apply_ite (State.withProfiles ps)]
  rfl

theorem exec_withProfiles (hps : ps.map profileRead = s.config.profiles.map profileRead) {i : Instr} {t : State}
    (hx : exec i s = .next t) : exec i (s.withProfiles ps) = .next (t.withProfiles ps) := by
  have hmap := burstWork_withProfiles hps i
  cases hb : burstWork i s with
  | some r =>
    rw [exec_of_burstWork hb] at hx
    rw [hb] at hmap
    rw [exec_of_burstWork hmap, finishBurst_withProfiles, Host.Outcome.next.inj hx]
  | none =>
    cases i <;> try contradiction
    case currentCode slot =>
      cases hx
      refine complete_withProfiles _ ?_
      rw [memRead_withProfiles]
      exact Res.withProfiles_andThen ps fun _ _ => rfl
    case takeAndAdvance slot d =>
      cases hx
      refine complete_withProfiles _ ?_
      rw [takeAndAdvance_withProfiles]
      exact Res.withProfiles_andThen ps fun _ _ => rfl
    case resetAll l => exact execResetAll_withProfiles hx
    all_goals cases hx; rfl

/-- Settles O46: what `profileRead` keeps of the profiles is what the statement compares. -/
theorem operationsIgnoreTopicKeyAndTravelTime : Obligations.OperationsIgnoreTopicKeyAndTravelTime :=
  fun _ _ _ _ hps hx => exec_withProfiles hps hx

end Sys2Proof.Machine
end

section
/-! SUPPORT. Where a move stops: which requests are refused, and that nothing else stops a block with no burst. -/

namespace Sys2Proof.Machine

/-! ## What the decoder rejects -/

theorem commandOfNibble_eq_none (n : Nibble) : commandOfNibble n = none ↔ n ∉ [0x2#4, 0x1#4, 0x4#4, 0x8#4] := by
  revert n; decide

/-- A selector that names none of the six operations is reserved (R90). -/
theorem isReservedSelector_of_ne : ∀ op : Byte, op ≠ opBuildFrame ∧ op ≠ opCurrentCode ∧ op ≠ opTakeAndAdvance ∧
    op ≠ opResetAll ∧ op ≠ opTransmitBurst ∧ op ≠ opSendCommand → isReservedSelector op = true := by
  decide

/-- The operations whose operands can be outside their types are `TAKE_AND_ADVANCE` and `RESET_ALL` (R141, R148). -/
theorem decodeSelector_illFormed_iff (cw : Nat) (op : Byte) (a : Operands) :
    (decodeSelector op a).wellFormed cw = false ↔
      op = 0x03#8 ∧ 2 ^ cw ≤ a.dflt ∨ op = 0x04#8 ∧ ∃ sd ∈ a.defaults, 2 ^ cw ≤ sd.2 := by
  by_cases h3 : op = opTakeAndAdvance
  · subst h3
    simp [decodeSelector, Instr.wellFormed, opTakeAndAdvance, opBuildFrame, opCurrentCode]
  by_cases h4 : op = opResetAll
  · subst h4
    simp [decodeSelector, Instr.wellFormed, opResetAll, opTakeAndAdvance, opBuildFrame, opCurrentCode]
  have hwf : (decodeSelector op a).wellFormed cw = true := by
    unfold decodeSelector
    rw [if_neg h3, if_neg h4]
    split; · rfl
    split; · rfl
    split; · rfl
    split; · rfl
    next h1 h2 h5 h6 => exact isReservedSelector_of_ne op ⟨h1, h2, h3, h4, h5, h6⟩
  have h3' : op ≠ 0x03#8 := h3
  have h4' : op ≠ 0x04#8 := h4
  simp [hwf, h3', h4']

theorem commandInstr_wellFormed (cw : Nat) (cmd : Command) (rid : RemoteId) (code : CodeField) :
    (commandInstr cmd rid code).wellFormed cw = true := by
  cases cmd <;> rfl

theorem sendInstr_wellFormed (cw : Nat) (cmd : Command) (r : Nat) : (sendInstr cmd r).wellFormed cw = true := by
  cases cmd <;> rfl

/-- A payload names one of the four sending forms or is malformed (R205). -/
theorem decode_payload_cases (remote : Nat) (bytes : List Byte) :
    (∃ cmd, decode (.payload remote bytes) = .ok (sendInstr cmd remote)) ∨
    decode (.payload remote bytes) = .error (.malformedPayload bytes) := by
  simp only [decode, decodePayload]
  split
  · split
    next cmd _ => exact .inl ⟨cmd, rfl⟩
    next => exact .inr rfl
  · exact .inr rfl

/-- Bytes that are no frame: not seven of them, or a first one other than the key (R80, R81). -/
def IsNoFrame (bytes : List Byte) : Prop := bytes.length ≠ 7 ∨ bytes[0]? ≠ some 0xA7#8

/-- A frame whose command nibble is one of the twelve reserved ones (R83). -/
def IsReservedFrame (bytes : List Byte) (n : Nibble) : Prop :=
  ∃ b1 b2 b3 b4 b5 b6 : Byte, bytes = [0xA7#8, b1, b2, b3, b4, b5, b6] ∧
    b1.extractLsb' 4 4 ∉ [0x2#4, 0x1#4, 0x4#4, 0x8#4] ∧ n = b1.extractLsb' 4 4

theorem IsReservedFrame.isFrame {bytes : List Byte} {n : Nibble} (h : IsReservedFrame bytes n) : ¬ IsNoFrame bytes := by
  obtain ⟨b1, b2, b3, b4, b5, b6, rfl, _, _⟩ := h
  simp [IsNoFrame]

theorem IsReservedFrame.unique {bytes : List Byte} {n n' : Nibble} (h : IsReservedFrame bytes n)
    (h' : IsReservedFrame bytes n') : n = n' := by
  obtain ⟨b1, b2, b3, b4, b5, b6, rfl, _, rfl⟩ := h
  obtain ⟨c1, c2, c3, c4, c5, c6, hb, _, rfl⟩ := h'
  cases hb; rfl

/-- Bytes are no frame, or a frame with a reserved command nibble, or they name a command row. -/
theorem decode_frame_cases (bytes : List Byte) :
    (IsNoFrame bytes ∧ decode (.frame bytes) = .error (.notAFrame bytes)) ∨
    (∃ n, IsReservedFrame bytes n ∧ decode (.frame bytes) = .error (.reservedCommandNibble n)) ∨
    (¬ IsNoFrame bytes ∧ (∀ n, ¬ IsReservedFrame bytes n) ∧
      ∃ cmd rid code, decode (.frame bytes) = .ok (commandInstr cmd rid code)) := by
  by_cases hlen : bytes.length = 7
  · match bytes, hlen with
    | [b0, b1, b2, b3, b4, b5, b6], _ =>
      by_cases hk : b0 = keyByte
      · subst hk
        cases hn : commandOfNibble (highNibble b1) with
        | none =>
          refine .inr (.inl ⟨_, ⟨b1, b2, b3, b4, b5, b6, rfl, (commandOfNibble_eq_none _).1 hn, rfl⟩, ?_⟩)
          simp [decode, decodeFrame, hn]; rfl
        | some cmd =>
          refine .inr (.inr ⟨by simp [IsNoFrame, keyByte], ?_, cmd, _, _, by simp [decode, decodeFrame, hn]; rfl⟩)
          rintro n ⟨c1, c2, c3, c4, c5, c6, hb, hr, _⟩
          cases hb
          rw [← commandOfNibble_eq_none] at hr
          exact nomatch hn.symm.trans hr
      · exact .inl ⟨.inr fun h => hk (Option.some.inj h), if_neg hk⟩
  · refine .inl ⟨.inl hlen, ?_⟩
    simp only [decode, decodeFrame]
    split
    · exact absurd rfl hlen
    · rfl

/-! ## The requests that are refused -/

/-- The requests that are refused, each with its reason: no frame (log 9), a reserved command nibble (I6), a default
that does not fit `CODE_WIDTH` bits (log 20). -/
def IsRefused (cw : Nat) (req : Request) (r : Refusal) : Prop :=
  (∃ bytes, req = .frame bytes ∧ IsNoFrame bytes ∧ r = .notAFrame) ∨
  (∃ b1 b2 b3 b4 b5 b6 : Byte, req = .frame [0xA7#8, b1, b2, b3, b4, b5, b6] ∧
    b1.extractLsb' 4 4 ∉ [0x2#4, 0x1#4, 0x4#4, 0x8#4] ∧ r = .reservedCommandNibble (b1.extractLsb' 4 4)) ∨
  (∃ args, (req = .select 0x03#8 args ∧ 2 ^ cw ≤ args.dflt ∨
    req = .select 0x04#8 args ∧ ∃ sd ∈ args.defaults, 2 ^ cw ≤ sd.2) ∧ r = .operandOutsideType)

section
variable {body : Instr → State → Host.Outcome State Fault Refusal}

theorem serveWith_of_error {req : Request} {why : Reject} (s : State) (hd : decode req = .error why) :
    serveWith body req s = rejected why s := by
  unfold serveWith; rw [hd]

variable (hbody : ∀ i s, ∃ t, body i s = .next t)
include hbody

theorem serveWith_refused_of_ok {req : Request} {i : Instr} (s : State) (hd : decode req = .ok i) (r : Refusal) :
    serveWith body req s = .refused r ↔ i.wellFormed s.codeWidth = false ∧ r = .operandOutsideType := by
  obtain ⟨t, ht⟩ := hbody i s
  unfold serveWith
  cases hw : i.wellFormed s.codeWidth <;> simp [hd, hw, ht, eq_comm]

theorem serveWith_ne_fault (req : Request) (s : State) (f : Fault) : serveWith body req s ≠ .fault f := by
  unfold serveWith
  split
  next why _ => cases why <;> nofun
  next i _ =>
    obtain ⟨t, ht⟩ := hbody i s
    rw [ht]; split <;> nofun

theorem serveWith_refused_iff (req : Request) (s : State) (r : Refusal) :
    serveWith body req s = .refused r ↔ IsRefused s.codeWidth req r := by
  cases req with
  | select op a =>
    rw [serveWith_refused_of_ok hbody s rfl, decodeSelector_illFormed_iff]
    constructor
    · rintro ⟨⟨rfl, h⟩ | ⟨rfl, h⟩, rfl⟩
      · exact .inr (.inr ⟨a, .inl ⟨rfl, h⟩, rfl⟩)
      · exact .inr (.inr ⟨a, .inr ⟨rfl, h⟩, rfl⟩)
    · rintro (⟨_, hreq, _⟩ | ⟨_, _, _, _, _, _, hreq, _⟩ | ⟨_, ⟨hreq, h⟩ | ⟨hreq, h⟩, rfl⟩) <;> cases hreq
      · exact ⟨.inl ⟨rfl, h⟩, rfl⟩
      · exact ⟨.inr ⟨rfl, h⟩, rfl⟩
  | payload remote bytes =>
    have hno : ¬ IsRefused s.codeWidth (.payload remote bytes) r := by simp [IsRefused]
    refine iff_of_false ?_ hno
    rcases decode_payload_cases remote bytes with ⟨cmd, hd⟩ | hd
    · rw [serveWith_refused_of_ok hbody s hd, sendInstr_wellFormed]; nofun
    · rw [serveWith_of_error s hd]; nofun
  | frame bytes =>
    have hreq : IsRefused s.codeWidth (.frame bytes) r ↔
        IsNoFrame bytes ∧ r = .notAFrame ∨ ∃ n, IsReservedFrame bytes n ∧ r = .reservedCommandNibble n := by
      constructor
      · rintro (⟨_, hf, hb, rfl⟩ | ⟨b1, b2, b3, b4, b5, b6, hf, hn, rfl⟩ | ⟨_, ⟨hf, _⟩ | ⟨hf, _⟩, _⟩) <;> cases hf
        · exact .inl ⟨hb, rfl⟩
        · exact .inr ⟨_, ⟨b1, b2, b3, b4, b5, b6, rfl, hn, rfl⟩, rfl⟩
      · rintro (⟨hb, rfl⟩ | ⟨_, ⟨b1, b2, b3, b4, b5, b6, rfl, hn, rfl⟩, rfl⟩)
        · exact .inl ⟨bytes, rfl, hb, rfl⟩
        · exact .inr (.inl ⟨b1, b2, b3, b4, b5, b6, rfl, hn, rfl⟩)
    rw [hreq]
    rcases decode_frame_cases bytes with ⟨hb, hd⟩ | ⟨n, hn, hd⟩ | ⟨hb, hn, cmd, rid, code, hd⟩
    · rw [serveWith_of_error s hd]
      constructor
      · intro hr; cases hr; exact .inl ⟨hb, rfl⟩
      · rintro (⟨_, rfl⟩ | ⟨n, hn, _⟩)
        · rfl
        · exact absurd hb hn.isFrame
    · rw [serveWith_of_error s hd]
      constructor
      · intro hr; cases hr; exact .inr ⟨n, hn, rfl⟩
      · rintro (⟨hb, _⟩ | ⟨n', hn', rfl⟩)
        · exact absurd hb hn.isFrame
        · rw [hn.unique hn']; rfl
    · rw [serveWith_refused_of_ok hbody s hd, commandInstr_wellFormed]
      simp [hb, hn]

end

/-! ## Where a move stops -/

/-- The events that bring a request. -/
def Event.Brings (req : Request) (e : Event) : Prop :=
  e = .operation req ∨ e = .stepwise req ∨ ∃ n cfg, e = .restartInOperation req n cfg

theorem execStepwise_next (i : Instr) (s : State) : ∃ t, execStepwise i s = .next t := by
  unfold execStepwise
  split
  · exact ⟨_, rfl⟩
  · exact exec_next i s

theorem afterCut_refused_iff (cfg : Configuration) (s : State) (o : Host.Outcome State Fault Refusal) (r : Refusal) :
    afterCut cfg s o = .refused r ↔ o = .refused r := by
  cases o <;> simp [afterCut]

theorem afterCut_ne_fault (cfg : Configuration) (s : State) {o : Host.Outcome State Fault Refusal} {f : Fault}
    (h : o ≠ .fault f) : afterCut cfg s o ≠ .fault f := by
  cases o
  case fault f' => exact fun hf => h (by cases hf; rfl)
  all_goals nofun

theorem handleEvent_ne_fault (e : Event) (s : State) (f : Fault) : handleEvent e s ≠ .fault f := by
  cases e with
  | operation req => exact serveWith_ne_fault exec_next req s f
  | stepwise req => exact serveWith_ne_fault execStepwise_next req s f
  | tick => nofun
  | boot => nofun
  | restart cfg => nofun
  | restartInOperation req n cfg => exact afterCut_ne_fault cfg s (serveWith_ne_fault exec_next req _ f)
  | restartInBoot n cfg => nofun

/-- An event is refused where it brings a request that is. -/
theorem handleEvent_refused_iff (e : Event) (s : State) (r : Refusal) :
    handleEvent e s = .refused r ↔ ∃ req, e.Brings req ∧ IsRefused s.codeWidth req r := by
  cases e with
  | operation req => exact (serveWith_refused_iff exec_next req s r).trans (by simp [Event.Brings])
  | stepwise req => exact (serveWith_refused_iff execStepwise_next req s r).trans (by simp [Event.Brings])
  | restartInOperation req n cfg =>
    exact (afterCut_refused_iff cfg s _ r).trans
      ((serveWith_refused_iff exec_next req _ r).trans (by simp [Event.Brings]))
  | tick => simp [Event.Brings, handleEvent]
  | boot => simp [Event.Brings, handleEvent]
  | restart cfg => simp [Event.Brings, handleEvent]
  | restartInBoot n cfg => simp [Event.Brings, handleEvent, afterCut]

theorem segmentStep_ne_refused (g : Frame) (k : Fin 3) (j : Nat) (s : State) (r : Refusal) :
    segmentStep g k j s ≠ .refused r := by
  rcases segmentStep_cases g k j s with ⟨seg, _, h⟩ | ⟨_, h⟩ <;> rw [h] <;> nofun

theorem segmentStep_fault_iff (g : Frame) (k : Fin 3) (j : Nat) (s : State) (f : Fault) :
    segmentStep g k j s = .fault f ↔ (segmentsAt g k).length ≤ j := by
  rw [← List.getElem?_eq_none_iff]
  rcases segmentStep_cases g k j s with ⟨seg, hseg, h⟩ | ⟨hseg, h⟩ <;> rw [h, hseg]
  · simp
  · cases f; simp

theorem step_fault_iff (s : State) (f : Fault) :
    step s = .fault f ↔ ∃ g k j, s.tx = .busy g k j ∧ (segmentsAt g k).length ≤ j ∧
      ∀ cfg rest, s.inbox ≠ .restart cfg :: rest := by
  rcases step_cases s with ⟨ht, _, h⟩ | ⟨e, rest, ht, _, h⟩ | ⟨g, k, j, cfg, rest, ht, hi, h⟩ |
    ⟨g, k, j, rest, ht, hi, h⟩ | ⟨g, k, j, ht, hw, h⟩ <;> rw [h]
  · simp [ht]
  · simp [ht, handleEvent_ne_fault]
  · simp [hi]
  · simp [ht, hi, segmentStep_fault_iff]
  · have hnr : ∀ cfg rest, s.inbox ≠ .restart cfg :: rest := fun cfg rest hi => by
      simpa [Event.waitsForBurst] using hw _ _ hi
    simp [ht, hnr, segmentStep_fault_iff]

theorem step_refused_iff (s : State) (r : Refusal) :
    step s = .refused r ↔ s.tx = .idle ∧ ∃ e rest req, s.inbox = e :: rest ∧ e.Brings req ∧
      IsRefused s.codeWidth req r := by
  rcases step_cases s with ⟨ht, hi, h⟩ | ⟨e, rest, ht, hi, h⟩ | ⟨g, k, j, cfg, rest, ht, hi, h⟩ |
    ⟨g, k, j, rest, ht, hi, h⟩ | ⟨g, k, j, ht, hw, h⟩ <;> rw [h]
  · simp [hi]
  · simp [ht, hi, handleEvent_refused_iff]
  · simp [ht]
  · simp [ht, segmentStep_ne_refused]
  · simp [ht, segmentStep_ne_refused]

/-- Settles O58: a fault is a segment position outside its transmission, a refusal a refused request next in the
inbox. -/
theorem movesStopExactlyWhereNamed : Obligations.MovesStopExactlyWhereNamed := by
  intro s
  refine ⟨fun h f hf => ?_, step_fault_iff s, fun r => ?_⟩
  · obtain ⟨g, k, j, ht, hj, _⟩ := (step_fault_iff s f).1 hf
    have := (h.busyIsLegal g k j ht).1
    omega
  · rw [step_refused_iff]
    refine and_congr_right fun _ => ⟨?_, ?_⟩
    · rintro ⟨_, rest, req, hi, rfl | rfl | ⟨n, cfg, rfl⟩, hr⟩
      · exact ⟨req, rest, .inl hi, hr⟩
      · exact ⟨req, rest, .inr (.inl hi), hr⟩
      · exact ⟨req, rest, .inr (.inr ⟨n, cfg, hi⟩), hr⟩
    · rintro ⟨req, rest, hi | hi | ⟨n, cfg, hi⟩, hr⟩
      · exact ⟨_, rest, req, hi, .inl rfl, hr⟩
      · exact ⟨_, rest, req, hi, .inr (.inl rfl), hr⟩
      · exact ⟨_, rest, req, hi, .inr (.inr ⟨n, cfg, rfl⟩), hr⟩

/-- Settles O55: serving the event decodes the request, finds it well-formed and runs `exec`. -/
theorem stepRunsTheDecodedInstruction : Obligations.StepRunsTheDecodedInstruction := by
  intro req i rest s ht hi hd hw
  rw [step_of_idle_event ht hi]
  simp [handleEvent, serve, serveWith, hd, hw]

/-- Settles O48: each value is written in `State.reset`. -/
theorem resetStateIsAsTheSpecSays : Obligations.ResetStateIsAsTheSpecSays :=
  ⟨rfl, rfl, rfl, rfl, rfl, rfl, rfl⟩

end Sys2Proof.Machine
end

section
/-! SUPPORT. The memory family: a write to the store (R61), where the data bits stand in a transmission (R59, R88), and
what a command must have committed before it emits (R65). -/

namespace Sys2Proof.Machine

/-! ## The store -/

/-- Settles O13, by the laws of the canonical store. -/
theorem storeWriteChangesOnlyItsSlot : Obligations.StoreWriteChangesOnlyItsSlot := fun m a _ v cw =>
  ⟨m.read_write_same a v, m.read_write_other v, m.write_wf a v, m.write_fits a v cw, m.write_write a v v⟩

/-! ## The data bits of a transmission -/

/-- In a list made of pairs, entry `2 * n + j` is entry `j` of the n-th pair. -/
theorem getElem?_flatMap_of_length_two {α β : Type} {f : α → List β} (hf : ∀ a, (f a).length = 2) (l : List α)
    (n : Nat) {j : Nat} (hj : j < 2) : (l.flatMap f)[2 * n + j]? = l[n]?.bind fun a => (f a)[j]? := by
  induction l generalizing n with
  | nil => simp
  | cons a l ih =>
    rw [List.flatMap_cons]
    cases n with
    | zero => rw [List.getElem?_append_left (by rw [hf]; omega)]; simp
    | succ n =>
      have hidx : 2 * (n + 1) + j - (f a).length = 2 * n + j := by rw [hf]; omega
      rw [List.getElem?_append_right (by rw [hf]; omega), hidx, ih, List.getElem?_cons_succ]

/-- The halves of bit n stand at `2 * n` and `2 * n + 1` of the data segments (R88). -/
theorem getElem?_dataSegments (g : Frame) {n j : Nat} (hn : n < 56) (hj : j < 2) :
    (dataSegments g)[2 * n + j]? = (bitSegments (airBit g n))[j]? := by
  unfold dataSegments
  rw [getElem?_flatMap_of_length_two (fun _ => length_bitSegments _) _ _ hj, List.getElem?_range hn, Option.bind_some]

/-- The data segments follow 8 segments of the first transmission and 16 of a repeat (R172). -/
theorem getElem?_frameSegments_data (g : Frame) (first : Bool) {i : Nat} (hi : i < 112) :
    (frameSegments g first)[(if first then 8 else 16) + i]? = (dataSegments g)[i]? := by
  have hlen : (wakePart first ++ repeated (syncCount first) hwSyncSegments ++ swSyncSegments).length
      = if first then 8 else 16 := by cases first <;> rfl
  unfold frameSegments
  rw [List.append_assoc _ (dataSegments g), ← hlen, List.getElem?_append_right (Nat.le_add_right _ _),
    Nat.add_sub_cancel_left, List.getElem?_append_left (by rw [length_dataSegments]; exact hi)]

/-- A bit on the air is a bit of a byte of the frame (R59). -/
theorem frameBytes_bit_eq_airBit (g : Frame) {n : Nat} (hn : n < 56) :
    (frameBytes g)[n / 8]?.map (fun byte => byte.getLsbD (7 - n % 8)) = some (airBit g n) := by
  have hlt : n / 8 < (frameBytes g).length := by simp only [frameBytes, List.length_cons, List.length_nil]; omega
  simp [airBit, frameByte, List.getD_eq_getElem?_getD, List.getElem?_eq_getElem hlt]

/-- Settles O26: the bit is `airBit`, and its halves are the pair of segments at its place among the data segments. -/
theorem dataBitsGoOutMostSignificantFirst : Obligations.DataBitsGoOutMostSignificantFirst := by
  intro g first n hn
  have half : ∀ j < 2, (frameSegments g first)[(if first then 8 else 16) + (2 * n + j)]?
      = (bitSegments (airBit g n))[j]? := fun j hj => by
    rw [getElem?_frameSegments_data g first (by omega), getElem?_dataSegments g hn hj]
  refine ⟨airBit g n, frameBytes_bit_eq_airBit g hn, (half 0 (by omega)).trans ?_, (half 1 (by omega)).trans ?_⟩
  · cases airBit g n <;> rfl
  · cases airBit g n <;> rfl

/-! ## Durability before emission -/

/-- The payload letters do before their first `Emit` what `SEND_COMMAND` of their command does (R205). -/
theorem burstWork_of_sends {i : Instr} {r : Nat} {cmd : Command} (s : State)
    (h : (i, cmd) ∈ [(Instr.sendCommand r cmd, cmd), (Instr.sendU r, Command.up), (Instr.sendS r, Command.stop),
      (Instr.sendD r, Command.down), (Instr.sendP r, Command.prog)]) :
    burstWork i s = some (prepareSend r cmd s) := by
  simp only [List.mem_cons, Prod.mk.injEq, List.not_mem_nil, or_false] at h
  rcases h with ⟨rfl, _⟩ | ⟨rfl, rfl⟩ | ⟨rfl, rfl⟩ | ⟨rfl, rfl⟩ | ⟨rfl, rfl⟩ <;> rfl

/-- A command that gets to its burst names a profile, and its code's successor is committed in the profile's slot (R65,
R200, R201). -/
theorem prepareSend_ok {r : Nat} {cmd : Command} {s m : State} {g : Frame} {v : Result} (hs : s.staged = [])
    (h : prepareSend r cmd s = .ok (g, v) m) :
    ∃ p c, s.config.profiles[r]? = some p ∧ v = .code c ∧ m.store.read p.slot = .value (c + 1) ∧
      c ≠ 2 ^ s.codeWidth - 1 ∧ g = buildFrame (BitVec.ofNat 24 p.id) cmd (frameCode c) := by
  rcases prepareSend_cases r cmd s with ⟨_, he⟩ | ⟨_, _, he⟩ | ⟨p, _, hp, he⟩ <;> rw [he] at h
  · cases h
  · cases h
  · obtain ⟨c, t, htake, hok⟩ := andThen_eq_ok h
    cases hok
    obtain ⟨n, rfl, hc, _⟩ := takeAndAdvance_ok hs htake
    exact ⟨p, c, hp, rfl, Memory.read_write_same _ _ _, hc, rfl⟩

/-- Settles O37: work that ends in an error leaves the trace, so what was emitted is the burst of successful work. -/
theorem nothingIsSentBeforeItsCommit : Obligations.NothingIsSentBeforeItsCommit := by
  intro r cmd i s t hi hs hx htrace
  rw [exec_of_burstWork (burstWork_of_sends s hi)] at hx
  have hkept := prepareSend_storeOnly r cmd s
  cases hr : prepareSend r cmd s with
  | err e m =>
    rw [hr] at hx hkept
    cases hx
    exact absurd hkept.trace htrace
  | ok gv m =>
    obtain ⟨g, v⟩ := gv
    obtain ⟨p, c, hp, rfl, hread, hc, rfl⟩ := prepareSend_ok hs hr
    rw [hr] at hx hkept
    cases hx
    simp only [finishBurst, transmit_eq]
    exact ⟨p, c, hp, rfl, hread, hc, congrArg (· ++ _) hkept.trace⟩

end Sys2Proof.Machine
end

section
/-! SUPPORT. The encoding family: what the decoder reads back from an encoded instruction (R80, R82, R89, R91), and what
becomes of a reserved selector (R90) and of a reserved command nibble (R83). -/

namespace Sys2Proof.Machine

/-! ## Commands and payload letters -/

/-- The four nibbles of R82 are distinct. -/
theorem commandOfNibble_commandNibble (cmd : Command) : commandOfNibble (commandNibble cmd) = some cmd := by
  cases cmd <;> rfl

/-- The four letters of R91 are distinct. -/
theorem decode_payloadLetter (cmd : Command) (r : Nat) :
    decode (.payload r [payloadLetter cmd]) = .ok (sendInstr cmd r) := by
  cases cmd <;> rfl

theorem highNibble_commandByte (cmd : Command) : highNibble (commandByte cmd) = commandNibble cmd := by
  cases cmd <;> rfl

/-- OR-ing a nibble into a byte leaves its high nibble. -/
theorem highNibble_or_nibble (b : Byte) (c : Nibble) : highNibble (b ||| c.setWidth 8) = highNibble b := by
  have hc : highNibble (c.setWidth 8) = 0#4 := by revert c; decide
  rw [highNibble, BitVec.extractLsb'_or]
  exact (congrArg (highNibble b ||| ·) hc).trans BitVec.or_zero

/-! ## The fields of a checksummed frame -/

theorem codeHigh_append_codeLow (code : CodeField) : codeHigh code ++ codeLow code = code := by
  rw [codeHigh, codeLow, BitVec.extractLsb'_append_extractLsb'_eq_extractLsb' (by rfl)]
  exact BitVec.extractLsb'_eq_self

theorem ridHigh_append_ridMiddle_append_ridLow (rid : RemoteId) : ridHigh rid ++ ridMiddle rid ++ ridLow rid = rid := by
  rw [ridHigh, ridMiddle, ridLow, BitVec.extractLsb'_append_extractLsb'_eq_extractLsb' (by rfl),
    BitVec.extractLsb'_append_extractLsb'_eq_extractLsb' (by rfl)]
  exact BitVec.extractLsb'_eq_self

/-- The checksum goes into byte 1's low nibble (R113), so the command nibble stands in the high one. -/
theorem highNibble_checkedFrame (rid : RemoteId) (cmd : Command) (code : CodeField) :
    highNibble (checkedFrame rid cmd code).b1 = commandNibble cmd :=
  (highNibble_or_nibble _ _).trans (highNibble_commandByte cmd)

/-- A frame whose command nibble is no reserved one names its command's row (R80, R82). -/
theorem decode_frame_of_commandNibble {b1 : Byte} {cmd : Command} (h : commandOfNibble (highNibble b1) = some cmd)
    (b2 b3 b4 b5 b6 : Byte) :
    decode (.frame [keyByte, b1, b2, b3, b4, b5, b6]) = .ok (commandInstr cmd (b4 ++ b5 ++ b6) (b2 ++ b3)) := by
  simp only [decode, decodeFrame, if_true, h]

/-- Reading a frame's fields undoes `ASSEMBLE` (R110), and the checksum is not read. -/
theorem decode_checkedFrame (rid : RemoteId) (cmd : Command) (code : CodeField) :
    decode (.frame (frameBytes (checkedFrame rid cmd code))) = .ok (commandInstr cmd rid code) := by
  have hcmd : commandOfNibble (highNibble (checkedFrame rid cmd code).b1) = some cmd := by
    rw [highNibble_checkedFrame, commandOfNibble_commandNibble]
  have hfields := decode_frame_of_commandNibble hcmd (codeHigh code) (codeLow code) (ridHigh rid) (ridMiddle rid)
    (ridLow rid)
  rw [ridHigh_append_ridMiddle_append_ridLow, codeHigh_append_codeLow] at hfields
  exact hfields

/-! ## Reserved selectors -/

/-- `isReservedSelector` is R90's range. -/
theorem isReservedSelector_iff (op : Byte) : isReservedSelector op = true ↔ op = 0x00#8 ∨ 0x07#8 ≤ op := by
  simp [isReservedSelector, BitVec.le_def, BitVec.toNat_eq]

/-- No selector of the six operations is reserved (R89, R90). -/
theorem ne_of_isReservedSelector : ∀ op : Byte, isReservedSelector op = true → op ≠ opBuildFrame ∧ op ≠ opCurrentCode ∧
    op ≠ opTakeAndAdvance ∧ op ≠ opResetAll ∧ op ≠ opTransmitBurst ∧ op ≠ opSendCommand := by
  decide

theorem decodeSelector_of_reserved {op : Byte} (h : isReservedSelector op = true) (a : Operands) :
    decodeSelector op a = .reservedSelector op := by
  simp [decodeSelector, ne_of_isReservedSelector op h]

/-! ## The obligations -/

/-- Settles O1, format by format: a selector names its own row and takes its lanes back, a checksummed frame keeps its
fields, a letter names its command. Well-formedness matters to the reserved selector alone. -/
theorem decodeOfEncodeIsTheInstruction : Obligations.DecodeOfEncodeIsTheInstruction := by
  intro cw i hwf
  cases i with
  | buildFrame rid cmd code => rfl
  | currentCode slot => rfl
  | takeAndAdvance slot d => rfl
  | resetAll defaults => rfl
  | transmitBurst g => rfl
  | sendCommand r cmd => rfl
  | reservedSelector op => exact congrArg Except.ok (decodeSelector_of_reserved hwf zeroOperands)
  | up rid code => exact decode_checkedFrame rid .up code
  | stop rid code => exact decode_checkedFrame rid .stop code
  | down rid code => exact decode_checkedFrame rid .down code
  | prog rid code => exact decode_checkedFrame rid .prog code
  | sendU r => exact decode_payloadLetter .up r
  | sendS r => exact decode_payloadLetter .stop r
  | sendD r => exact decode_payloadLetter .down r
  | sendP r => exact decode_payloadLetter .prog r

/-- Settles O2: the decoder evaluates each word to its instruction. -/
theorem specWordsDecodeToTheirInstruction : Obligations.SpecWordsDecodeToTheirInstruction :=
  ⟨rfl, rfl, rfl, rfl, rfl, rfl, rfl, rfl, rfl, rfl, rfl, rfl, rfl, rfl⟩

/-- Settles O3: R90's range decodes to the reserved row, whose meaning is the raise alone. -/
theorem reservedSelectorRaisesUnknownOperation : Obligations.ReservedSelectorRaisesUnknownOperation :=
  fun op args _ hop => ⟨congrArg Except.ok (decodeSelector_of_reserved ((isReservedSelector_iff op).2 hop) args), rfl⟩

/-- Settles O4: such a frame is one of the refused requests, and it is next in the inbox of an idle block. -/
theorem reservedCommandNibbleIsRefused : Obligations.ReservedCommandNibbleIsRefused := by
  intro b1 b2 b3 b4 b5 b6 s rest hn ht hi
  have hrefused : IsRefused s.codeWidth (.frame [0xA7#8, b1, b2, b3, b4, b5, b6])
      (.reservedCommandNibble (b1.extractLsb' 4 4)) := .inr (.inl ⟨b1, b2, b3, b4, b5, b6, rfl, hn, rfl⟩)
  exact (step_refused_iff s _).2 ⟨ht, _, rest, _, hi, .inl rfl, hrefused⟩

end Sys2Proof.Machine
end

section
/-! SUPPORT. The frame codec family: the checksum as an XOR of nibbles (R111 to R114), the obfuscation's chain and its
inverse (R115, R116, R122), what `BUILD_FRAME` and the command rows return (R117 to R121, R123), and what each operation
leaves unchanged. -/

namespace Sys2Proof.Machine

/-! ## The nibbles of a byte -/

/-- What a byte adds to the XOR of a frame's nibbles (R112). -/
def byteNibbleXor (b : Byte) : Nibble := highNibble b ^^^ lowNibble b

theorem highNibble_xor (a b : Byte) : highNibble (a ^^^ b) = highNibble a ^^^ highNibble b := BitVec.extractLsb'_xor

theorem lowNibble_xor (a b : Byte) : lowNibble (a ^^^ b) = lowNibble a ^^^ lowNibble b := BitVec.extractLsb'_xor

theorem byteNibbleXor_xor (a b : Byte) : byteNibbleXor (a ^^^ b) = byteNibbleXor a ^^^ byteNibbleXor b := by
  simp only [byteNibbleXor, highNibble_xor, lowNibble_xor]
  ac_rfl

theorem lowNibble_shiftRight_four : ∀ b : Byte, lowNibble (b >>> 4) = highNibble b := by decide

/-- OR-ing a nibble into a byte whose low nibble is 0 puts it there. -/
theorem lowNibble_or_nibble {b : Byte} (hb : lowNibble b = 0#4) (c : Nibble) : lowNibble (b ||| c.setWidth 8) = c := by
  have hc : lowNibble (c.setWidth 8) = c := by revert c; decide
  calc lowNibble (b ||| c.setWidth 8) = lowNibble b ||| lowNibble (c.setWidth 8) := BitVec.extractLsb'_or
    _ = c := by rw [hb, hc, BitVec.zero_or]

theorem and_high_of_lowNibble_eq_zero : ∀ b : Byte, lowNibble b = 0#4 → b &&& 0xF0#8 = b := by decide

theorem lowNibble_commandByte (cmd : Command) : lowNibble (commandByte cmd) = 0#4 := by
  cases cmd <;> rfl

theorem byteNibbleXor_commandByte (cmd : Command) : byteNibbleXor (commandByte cmd) = commandNibble cmd := by
  rw [byteNibbleXor, highNibble_commandByte, lowNibble_commandByte, BitVec.xor_zero]

/-- A command byte with a checksum OR-ed in is the two nibbles side by side (R113). -/
theorem commandByte_or_nibble (cmd : Command) (c : Nibble) : commandByte cmd ||| c.setWidth 8 = commandNibble cmd ++ c := by
  revert c
  cases cmd <;> decide

/-! ## The checksum -/

theorem nibbleXor_eq (f : Frame) :
    nibbleXor f = byteNibbleXor f.b0 ^^^ byteNibbleXor f.b1 ^^^ byteNibbleXor f.b2 ^^^ byteNibbleXor f.b3 ^^^
      byteNibbleXor f.b4 ^^^ byteNibbleXor f.b5 ^^^ byteNibbleXor f.b6 := by
  simp [nibbleXor, frameBytes, byteNibbleXor]

/-- Byte 1's share of the XOR of the nibbles, the other bytes left. -/
theorem nibbleXor_with_b1 (f : Frame) (b : Byte) :
    nibbleXor { f with b1 := b } = nibbleXor { f with b1 := 0x00#8 } ^^^ byteNibbleXor b := by
  have h0 : byteNibbleXor 0x00#8 = 0#4 := rfl
  simp only [nibbleXor_eq, h0, BitVec.xor_zero]
  ac_rfl

/-- One turn of R111's loop puts both nibbles of the byte into the accumulator's low nibble. -/
theorem lowNibble_checksum_turn (acc b : Byte) :
    lowNibble (acc ^^^ b ^^^ (b >>> 4)) = lowNibble acc ^^^ (highNibble b ^^^ lowNibble b) := by
  rw [lowNibble_xor, lowNibble_xor, lowNibble_shiftRight_four]
  ac_rfl

/-- R111's mask keeps the accumulator's low nibble. -/
theorem checksum_eq_lowNibble (p : Frame) : checksum p = lowNibble (checksumAcc p) := by
  have hmask : ∀ b : Byte, (b &&& 0x0F#8).setWidth 4 = lowNibble b := by decide
  exact hmask _

/-- R112, turn by turn: the low nibble of R111's accumulator is the running XOR of the nibbles. -/
theorem checksum_eq_nibbleXor (p : Frame) : checksum p = nibbleXor p := by
  rw [checksum_eq_lowNibble]
  exact (List.foldl_hom lowNibble fun acc b => (lowNibble_checksum_turn acc b).symm).symm

/-! ## The checksummed frame -/

/-- A checksum put into the cleared nibble adds itself to the XOR of the nibbles. -/
theorem nibbleXor_insertChecksum {p : Frame} (h : lowNibble p.b1 = 0#4) (c : Nibble) :
    nibbleXor (insertChecksum p c) = nibbleXor p ^^^ c := by
  have hb : byteNibbleXor (p.b1 ||| c.setWidth 8) = byteNibbleXor p.b1 ^^^ c := by
    simp only [byteNibbleXor, highNibble_or_nibble, lowNibble_or_nibble h, h, BitVec.xor_zero]
  calc nibbleXor (insertChecksum p c)
      = nibbleXor { p with b1 := 0x00#8 } ^^^ (byteNibbleXor p.b1 ^^^ c) := hb ▸ nibbleXor_with_b1 p _
    _ = nibbleXor p ^^^ c := by rw [← BitVec.xor_assoc, ← nibbleXor_with_b1 p p.b1]

/-- The checksum makes the XOR of all 14 nibbles 0 (R114). -/
theorem nibbleXor_checksummed {p : Frame} (h : lowNibble p.b1 = 0#4) : nibbleXor (insertChecksum p (checksum p)) = 0#4 := by
  rw [nibbleXor_insertChecksum h, checksum_eq_nibbleXor, BitVec.xor_self]

/-- Clearing the checksum nibble undoes `INSERT` (R123). -/
theorem insertChecksum_cleared {p : Frame} (h : lowNibble p.b1 = 0#4) (c : Nibble) :
    { insertChecksum p c with b1 := (insertChecksum p c).b1 &&& 0xF0#8 } = p := by
  have hb : (p.b1 ||| c.setWidth 8) &&& 0xF0#8 = p.b1 :=
    (Laws.or_nibble_and_high c p.b1).trans (and_high_of_lowNibble_eq_zero _ h)
  exact congrArg (fun b => { p with b1 := b }) hb

/-- Settles O5: R111's loop is the XOR of the nibbles, written out. -/
theorem checksumIsTheXorOfAllFourteenNibbles : Obligations.ChecksumIsTheXorOfAllFourteenNibbles :=
  fun p => (checksum_eq_nibbleXor p).trans (nibbleXor_eq p)

/-- Settles O6: the checksum cancels the XOR of the other nibbles, and clearing it gives `P` back. -/
theorem checksummedFrameHasNibbleXorZero : Obligations.ChecksummedFrameHasNibbleXorZero := by
  intro p h
  refine ⟨nibbleXor_checksummed h, ?_⟩
  rw [insertChecksum_cleared h, ← checksum_eq_nibbleXor]
  exact lowNibble_or_nibble h _

/-! ## The obfuscation -/

/-- One link of R115's chain. -/
theorem frameByte_obfuscate_succ (f : Frame) {i : Nat} (hi : i < 6) :
    frameByte (obfuscate f) (i + 1) = frameByte f (i + 1) ^^^ frameByte (obfuscate f) i := by
  interval_cases i <;> rfl

/-- R116, by induction along the chain. -/
theorem frameByte_obfuscate (f : Frame) {i : Nat} (hi : i < 7) :
    frameByte (obfuscate f) i = ((frameBytes f).take (i + 1)).foldl (fun (a b : Byte) => a ^^^ b) 0#8 := by
  induction i with
  | zero => exact BitVec.zero_xor.symm
  | succ i ih =>
    have hlt : i + 1 < (frameBytes f).length := hi
    have hbyte : frameByte f (i + 1) = (frameBytes f)[i + 1] := by simp [frameByte, hlt]
    rw [frameByte_obfuscate_succ f (by omega), ih (by omega), List.take_succ_eq_append_getElem hlt, List.foldl_append, hbyte]
    exact BitVec.xor_comm _ _

/-- The last obfuscated byte carries the XOR of all nibbles, split over its two (R116). -/
theorem byteNibbleXor_obfuscate_b6 (f : Frame) : byteNibbleXor (obfuscate f).b6 = nibbleXor f := by
  have hlast : (obfuscate f).b6 = (frameBytes f).foldl (fun (a b : Byte) => a ^^^ b) 0#8 :=
    frameByte_obfuscate f (i := 6) (by decide)
  rw [hlast]
  exact (List.foldl_hom byteNibbleXor fun a b => (byteNibbleXor_xor a b).symm).symm

/-- Settles O7, by the chain's closed form and the nibble XOR of a checksummed frame. -/
theorem obfuscatedByteIsTheXorOfBytesUpToIt : Obligations.ObfuscatedByteIsTheXorOfBytesUpToIt :=
  ⟨fun f _ hi => frameByte_obfuscate f hi, fun _ h => (byteNibbleXor_obfuscate_b6 _).trans (nibbleXor_checksummed h)⟩

theorem deobfuscate_obfuscate (f : Frame) : deobfuscate (obfuscate f) = f := by
  simp [deobfuscate, obfuscate]

theorem obfuscate_deobfuscate (g : Frame) : obfuscate (deobfuscate g) = g := by
  simp [deobfuscate, obfuscate]

/-- Settles O8: each byte is XORed twice with the byte before it in `G`; the fixture is evaluated. -/
theorem deobfuscateRestoresTheFrame : Obligations.DeobfuscateRestoresTheFrame :=
  ⟨deobfuscate_obfuscate, obfuscate_deobfuscate, rfl⟩

/-! ## Building a frame -/

/-- `BUILD_FRAME` returns its frame in every phase and writes nothing (R117). -/
theorem exec_buildFrame (rid : RemoteId) (cmd : Command) (code : CodeField) (s : State) :
    exec (.buildFrame rid cmd code) s = .next (s.returns (.frame (buildFrame rid cmd code))) := rfl

/-- The command rows run `BUILD_FRAME` (R118 to R121). -/
theorem exec_commandInstr (cmd : Command) (rid : RemoteId) (code : CodeField) (s : State) :
    exec (commandInstr cmd rid code) s = .next (s.returns (.frame (buildFrame rid cmd code))) := by
  cases cmd <;> rfl

/-- `P` with byte 1 empty: the twelve nibbles that do not depend on the command (R118 to R121). -/
def withoutCommand (rid : RemoteId) (code : CodeField) : Frame :=
  ⟨0xA7#8, 0x00#8, codeHigh code, codeLow code, ridHigh rid, ridMiddle rid, ridLow rid⟩

/-- `CKS = K ^ CMD`, K the XOR of the nibbles that do not depend on the command (R118 to R121). -/
theorem checksum_assemble (rid : RemoteId) (cmd : Command) (code : CodeField) :
    checksum (assemble rid cmd code) = nibbleXor (withoutCommand rid code) ^^^ commandNibble cmd := by
  rw [checksum_eq_nibbleXor, ← byteNibbleXor_commandByte]
  exact nibbleXor_with_b1 (withoutCommand rid code) (commandByte cmd)

/-- The checksummed frame: `CMD` and `K ^ CMD` in byte 1, the other bytes as assembled. -/
theorem checkedFrame_eq (rid : RemoteId) (cmd : Command) (code : CodeField) :
    checkedFrame rid cmd code = { withoutCommand rid code with
      b1 := commandNibble cmd ++ (nibbleXor (withoutCommand rid code) ^^^ commandNibble cmd) } := by
  rw [← checksum_assemble, ← commandByte_or_nibble]
  rfl

/-- `P` gives back the command, the code and the address (R123). -/
theorem assemble_injective {rid rid' : RemoteId} {cmd cmd' : Command} {code code' : CodeField}
    (h : assemble rid cmd code = assemble rid' cmd' code') : rid = rid' ∧ cmd = cmd' ∧ code = code' := by
  obtain ⟨-, hcmd, hhigh, hlow, hr2, hr1, hr0⟩ := Frame.mk.inj h
  refine ⟨?_, ?_, ?_⟩
  · rw [← ridHigh_append_ridMiddle_append_ridLow rid, hr2, hr1, hr0, ridHigh_append_ridMiddle_append_ridLow]
  · have hn : commandNibble cmd = commandNibble cmd' := by rw [← highNibble_commandByte, hcmd, highNibble_commandByte]
    exact Option.some.inj (by rw [← commandOfNibble_commandNibble, hn, commandOfNibble_commandNibble])
  · rw [← codeHigh_append_codeLow code, hhigh, hlow, codeHigh_append_codeLow]

/-- Undoing the stages one by one (R123): the obfuscation, the checksum, the assembly. -/
theorem buildFrame_injective {rid rid' : RemoteId} {cmd cmd' : Command} {code code' : CodeField}
    (h : buildFrame rid cmd code = buildFrame rid' cmd' code') : rid = rid' ∧ cmd = cmd' ∧ code = code' := by
  have hchecked : checkedFrame rid cmd code = checkedFrame rid' cmd' code' := by
    rw [← deobfuscate_obfuscate (checkedFrame rid cmd code)]
    exact (congrArg deobfuscate h).trans (deobfuscate_obfuscate _)
  have hcleared := congrArg (fun f : Frame => { f with b1 := f.b1 &&& 0xF0#8 }) hchecked
  exact assemble_injective ((insertChecksum_cleared (lowNibble_commandByte cmd) _).symm.trans
    (hcleared.trans (insertChecksum_cleared (lowNibble_commandByte cmd') _)))

/-- Settles O9, stage by stage. -/
theorem buildFrameIsInjective : Obligations.BuildFrameIsInjective := fun rid _ cmd _ code _ =>
  ⟨buildFrame_injective, deobfuscate_obfuscate _, insertChecksum_cleared (lowNibble_commandByte cmd) _,
    (congrArg commandOfNibble (highNibble_commandByte cmd)).trans (commandOfNibble_commandNibble cmd),
    codeHigh_append_codeLow code, ridHigh_append_ridMiddle_append_ridLow rid⟩

/-- Settles O10: the stages of `buildFrame` are those of R110 to R115. -/
theorem buildFrameReturnsTheObfuscatedFrame : Obligations.BuildFrameReturnsTheObfuscatedFrame :=
  fun rid cmd code s => ⟨assemble rid cmd code, rfl, exec_buildFrame rid cmd code s⟩

/-- Settles O11: each row is a command's, and byte 1 is read off the checksummed frame. -/
theorem commandRowsBuildTheFrameOfTheirCommand : Obligations.CommandRowsBuildTheFrameOfTheirCommand := by
  intro rid code s i n hi
  obtain ⟨cmd, rfl, rfl⟩ : ∃ cmd, i = commandInstr cmd rid code ∧ n = commandNibble cmd := by
    simp only [List.mem_cons, Prod.mk.injEq, List.not_mem_nil, or_false] at hi
    rcases hi with ⟨rfl, rfl⟩ | ⟨rfl, rfl⟩ | ⟨rfl, rfl⟩ | ⟨rfl, rfl⟩
    · exact ⟨.up, rfl, rfl⟩
    · exact ⟨.stop, rfl, rfl⟩
    · exact ⟨.down, rfl, rfl⟩
    · exact ⟨.prog, rfl, rfl⟩
  refine ⟨_, rfl, ?_⟩
  rw [exec_commandInstr, buildFrame, checkedFrame_eq]
  rfl

/-- Settles O12: the model evaluates the four frames. -/
theorem canonicalFixtureFrames : Obligations.CanonicalFixtureFrames := ⟨rfl, rfl, rfl, rfl⟩

/-! ## What an operation leaves unchanged -/

/-- From `s` to `t` the store is written in `slots` alone, nothing is left staged, and no segment goes out. -/
structure StoreEffect (slots : List Slot) (s t : State) : Prop where
  nothingStaged : t.staged = []
  writes : ∃ ws : List (Slot × Nat), ws.map Prod.fst ⊆ slots ∧ t.store = s.store.writeAll ws
  trace : t.trace = s.trace
  line : t.line = s.line
  tx : t.tx = s.tx

section
variable {slots : List Slot} {s t : State}

theorem StoreEffect.refl (hs : s.staged = []) : StoreEffect slots s s :=
  ⟨hs, ⟨[], List.nil_subset _, rfl⟩, rfl, rfl, rfl⟩

/-- Writes that are all committed at once. -/
theorem StoreEffect.commitTo {ws : List (Slot × Nat)} (n : Nat) (hws : ws.map Prod.fst ⊆ slots) :
    StoreEffect slots s ((s.afterDraws n).commitTo (s.store.writeAll ws)) :=
  ⟨rfl, ⟨ws, hws, rfl⟩, rfl, rfl, rfl⟩

theorem StoreEffect.read_other (h : StoreEffect slots s t) {a : Slot} (ha : a ∉ slots) :
    t.store.read a = s.store.read a := by
  obtain ⟨ws, hws, hstore⟩ := h.writes
  rw [hstore, Memory.read_writeAll_other ws _ a fun hmem => ha (hws hmem)]

/-- With no slot to write the store itself is kept. -/
theorem StoreEffect.unchanged (h : StoreEffect [] s t) :
    t.staged = [] ∧ t.store = s.store ∧ t.trace = s.trace ∧ t.line = s.line ∧ t.tx = s.tx := by
  obtain ⟨ws, hws, hstore⟩ := h.writes
  obtain rfl : ws = [] := List.map_eq_nil_iff.1 (List.subset_nil.1 hws)
  exact ⟨h.nothingStaged, hstore, h.trace, h.line, h.tx⟩

theorem StoreEffect.raise (h : StoreEffect slots s t) (e : ErrorRecord) : StoreEffect slots s (t.raise e) :=
  ⟨rfl, h.writes, h.trace, h.line, h.tx⟩

theorem StoreEffect.returns (h : StoreEffect slots s t) (v : Result) : StoreEffect slots s (t.returns v) :=
  ⟨h.nothingStaged, h.writes, h.trace, h.line, h.tx⟩

theorem StoreEffect.ifAdmitted {α : Type} {op : Byte} {body : State → Res α} (hs : s.staged = [])
    (h : StoreEffect slots s (body s).state) : StoreEffect slots s (ifAdmitted op s body).state := by
  unfold Machine.ifAdmitted
  split
  · exact h
  · exact .refl hs

theorem StoreEffect.andThen_ok {α β : Type} {r : Res α} (h : StoreEffect slots s r.state) (f : α → β) :
    StoreEffect slots s (r.andThen fun a s => .ok (f a) s).state := by
  cases r with
  | ok a m => exact h
  | err e m => exact h

theorem StoreEffect.complete {r : Res Result} (h : StoreEffect slots s r.state) (hx : complete r = .next t) :
    StoreEffect slots s t := by
  cases hx
  cases r with
  | ok v m => exact h.returns v
  | err e m => exact h.raise e

theorem memRead_effect (slot : Slot) (hs : s.staged = []) : StoreEffect [] s (memRead slot s).state := by
  have hdrawn : StoreEffect [] s (s.afterDraws 1) := ⟨hs, ⟨[], List.nil_subset _, rfl⟩, rfl, rfl, rfl⟩
  rcases memRead_cases slot s with ⟨_, h⟩ | ⟨_, h⟩ <;> rw [h] <;> exact hdrawn

theorem takeAndAdvance_effect (slot : Slot) (d : Nat) (hs : s.staged = []) :
    StoreEffect [slot] s (takeAndAdvance slot d s).state := by
  cases hr : takeAndAdvance slot d s with
  | ok c t =>
    obtain ⟨n, rfl, _⟩ := takeAndAdvance_ok hs hr
    exact .commitTo (ws := [(slot, c + 1)]) n (List.Subset.refl _)
  | err e t =>
    obtain ⟨n, m, rfl, rfl | ⟨_, rfl⟩, _⟩ := takeAndAdvance_err hs hr
    · exact .commitTo (ws := []) n (List.nil_subset _)
    · exact .commitTo (ws := [(slot, d)]) n (List.Subset.refl _)

theorem resetEach_effect (l : List (Slot × Nat)) (hs : s.staged = []) :
    StoreEffect (l.map Prod.fst) s (resetEach l s).state := by
  rcases resetEach_cases l s hs with ⟨_, h⟩ | ⟨before, slot, d, after, stage, n, rfl, _, _, _, h⟩ <;> rw [h]
  · exact .commitTo _ (List.Subset.refl _)
  · exact .commitTo _ (by rw [List.map_append]; exact List.subset_append_left _ _)

theorem execBuildFrame_effect {rid : RemoteId} {cmd : Command} {code : CodeField} (hs : s.staged = [])
    (hx : execBuildFrame rid cmd code s = .next t) : StoreEffect [] s t :=
  StoreEffect.complete (.ifAdmitted hs (.refl hs)) hx

theorem execCurrentCode_effect {slot : Slot} (hs : s.staged = []) (hx : execCurrentCode slot s = .next t) :
    StoreEffect [] s t :=
  StoreEffect.complete (.ifAdmitted hs ((memRead_effect slot hs).andThen_ok _)) hx

theorem execTakeAndAdvance_effect {slot : Slot} {d : Nat} (hs : s.staged = [])
    (hx : execTakeAndAdvance slot d s = .next t) : StoreEffect [slot] s t :=
  StoreEffect.complete (.ifAdmitted hs ((takeAndAdvance_effect slot d hs).andThen_ok _)) hx

/-- Ended well, by an error that halts (log 17), or by the phase test, `RESET_ALL` wrote in its list's slots only. -/
theorem execResetAll_effect {l : List (Slot × Nat)} (hs : s.staged = []) (hx : execResetAll l s = .next t) :
    StoreEffect (l.map Prod.fst) s t := by
  have hwrites := resetEach_effect l hs
  unfold execResetAll at hx
  cases hx
  split
  · cases hr : resetEach l s with
    | ok u m => rw [hr] at hwrites; exact hwrites.returns .done
    | err e m => rw [hr] at hwrites; exact ⟨rfl, hwrites.writes, hwrites.trace, hwrites.line, hwrites.tx⟩
  · exact (StoreEffect.refl hs).raise _

/-! ## What an operation with a burst leaves unchanged -/

/-- The burst itself does not touch the store (R174). -/
theorem StoreEffect.finishBurst {r : Res (Frame × Result)} (h : StoreEffect slots s r.state) :
    (finishBurst r).staged = [] ∧ (finishBurst r).store = r.state.store := by
  cases r with
  | ok gv m =>
    simp only [Machine.finishBurst, returns_staged, returns_store, transmit_eq]
    exact ⟨h.nothingStaged, rfl⟩
  | err e m => exact ⟨rfl, rfl⟩

theorem prepareTransmit_effect (g : Frame) (hs : s.staged = []) : StoreEffect [] s (prepareTransmit g s).state :=
  .ifAdmitted hs (.refl hs)

/-- The slot a sending form may write: that of its profile, where `r` names one (R200). -/
def sendSlots (cfg : Configuration) (r : Nat) : List Slot := (cfg.profiles[r]?.map Profile.slot).toList

theorem not_mem_sendSlots {cfg : Configuration} {r : Nat} {a : Slot} (h : ∀ p, cfg.profiles[r]? = some p → a ≠ p.slot) :
    a ∉ sendSlots cfg r := by
  cases hp : cfg.profiles[r]? with
  | none => simp [sendSlots, hp]
  | some p => simp [sendSlots, hp, h p hp]

theorem prepareSend_effect (r : Nat) (cmd : Command) (hs : s.staged = []) :
    StoreEffect (sendSlots s.config r) s (prepareSend r cmd s).state := by
  rcases prepareSend_cases r cmd s with ⟨_, h⟩ | ⟨_, _, h⟩ | ⟨p, _, hp, h⟩ <;> rw [h]
  · exact .refl hs
  · exact .refl hs
  · have hslots : sendSlots s.config r = [p.slot] := by simp [sendSlots, hp]
    rw [hslots]
    exact (takeAndAdvance_effect p.slot p.defaultCode hs).andThen_ok _

theorem execTransmitBurst_leaves {g : Frame} (hs : s.staged = []) (hx : execTransmitBurst g s = .next t) :
    t.staged = [] ∧ t.store = s.store := by
  cases hx
  have h := prepareTransmit_effect g hs
  obtain ⟨hstaged, hburst⟩ := h.finishBurst
  obtain ⟨-, hstore, -⟩ := h.unchanged
  exact ⟨hstaged, hburst.trans hstore⟩

theorem execSendCommand_leaves {r : Nat} {cmd : Command} (hs : s.staged = []) (hx : execSendCommand r cmd s = .next t) :
    t.staged = [] ∧
      ∀ a, (∀ p, s.config.profiles[r]? = some p → a ≠ p.slot) → t.store.read a = s.store.read a := by
  cases hx
  have h := prepareSend_effect r cmd hs
  obtain ⟨hstaged, hstore⟩ := h.finishBurst
  exact ⟨hstaged, fun a ha => by rw [hstore, h.read_other (not_mem_sendSlots ha)]⟩

end

/-- Settles O44, row by row: the codec's rows and `CURRENT_CODE` have no slot to write, the store's operations write their
own, and the sending forms their profile's before the burst. -/
theorem operationsWriteOnlyTheirOwnState : Obligations.OperationsWriteOnlyTheirOwnState := by
  intro i s t hs hx
  cases i with
  | buildFrame rid cmd code => exact (execBuildFrame_effect hs hx).unchanged
  | currentCode slot => exact (execCurrentCode_effect hs hx).unchanged
  | takeAndAdvance slot d =>
    have h := execTakeAndAdvance_effect hs hx
    exact ⟨h.nothingStaged, fun a ha => h.read_other (by simpa using ha), h.trace, h.line, h.tx⟩
  | resetAll l =>
    have h := execResetAll_effect hs hx
    exact ⟨h.nothingStaged, fun a ha => h.read_other ha, h.trace, h.line, h.tx⟩
  | transmitBurst g => exact execTransmitBurst_leaves hs hx
  | sendCommand r cmd => exact execSendCommand_leaves hs hx
  | reservedSelector op =>
    cases hx
    exact ((StoreEffect.refl hs).raise _).unchanged
  | up rid code => exact (execBuildFrame_effect hs hx).unchanged
  | stop rid code => exact (execBuildFrame_effect hs hx).unchanged
  | down rid code => exact (execBuildFrame_effect hs hx).unchanged
  | prog rid code => exact (execBuildFrame_effect hs hx).unchanged
  | sendU r => exact execSendCommand_leaves hs hx
  | sendS r => exact execSendCommand_leaves hs hx
  | sendD r => exact execSendCommand_leaves hs hx
  | sendP r => exact execSendCommand_leaves hs hx

end Sys2Proof.Machine
end

section
/-! SUPPORT. The rolling-code family, `CURRENT_CODE` and `TAKE_AND_ADVANCE`: what a take does under given answers of the
backend (R140 to R145). -/

namespace Sys2Proof.Machine

variable {slot : Slot} {s : State}

/-! ## A durable write under given answers of the backend -/

theorem writeDurably_ok (v : Nat) (hs : s.staged = []) (h0 : s.drawAt 0 = false) (h1 : s.drawAt 1 = false) :
    writeDurably slot v s = .ok () ((s.afterDraws 2).commitTo (s.store.write slot v)) := by
  rcases writeDurably_cases slot v s hs with ⟨_, _, h⟩ | ⟨hf, _⟩ | ⟨_, hf, _⟩
  · exact h
  · simp [h0] at hf
  · simp [h1] at hf

theorem writeDurably_writeFails (v : Nat) (hs : s.staged = []) (h0 : s.drawAt 0 = true) :
    writeDurably slot v s = .err (.storageError .write slot) (s.afterDraws 1) := by
  rcases writeDurably_cases slot v s hs with ⟨hf, _⟩ | ⟨_, h⟩ | ⟨hf, _⟩
  · simp [h0] at hf
  · exact h
  · simp [h0] at hf

theorem writeDurably_commitFails (v : Nat) (hs : s.staged = []) (h0 : s.drawAt 0 = false) (h1 : s.drawAt 1 = true) :
    writeDurably slot v s = .err (.storageError .commit slot) (s.afterDraws 2) := by
  rcases writeDurably_cases slot v s hs with ⟨_, hf, _⟩ | ⟨hf, _⟩ | ⟨_, _, h⟩
  · simp [h1] at hf
  · simp [h0] at hf
  · exact h

/-! ## The advance and the default's own commit -/

theorem advance_exhausted {c : Nat} (hc : c = 2 ^ s.codeWidth - 1) :
    advance slot c s = .err (.counterExhausted slot c) s := if_pos hc

section
variable {c : Nat} (hc : c ≠ 2 ^ s.codeWidth - 1)
include hc

theorem advance_of_ne : advance slot c s = (writeDurably slot (c + 1) s).andThen fun _ s => .ok c s := if_neg hc

theorem advance_ok (hs : s.staged = []) (h0 : s.drawAt 0 = false) (h1 : s.drawAt 1 = false) :
    advance slot c s = .ok c ((s.afterDraws 2).commitTo (s.store.write slot (c + 1))) := by
  rw [advance_of_ne hc, writeDurably_ok _ hs h0 h1, andThen_ok]

theorem advance_writeFails (hs : s.staged = []) (h0 : s.drawAt 0 = true) :
    advance slot c s = .err (.storageError .write slot) (s.afterDraws 1) := by
  rw [advance_of_ne hc, writeDurably_writeFails _ hs h0, andThen_err]

theorem advance_commitFails (hs : s.staged = []) (h0 : s.drawAt 0 = false) (h1 : s.drawAt 1 = true) :
    advance slot c s = .err (.storageError .commit slot) (s.afterDraws 2) := by
  rw [advance_of_ne hc, writeDurably_commitFails _ hs h0 h1, andThen_err]

end

/-- A call that comes after `n` others, with the store committed meanwhile or not, has its own draw. -/
theorem drawAt_after {n i : Nat} {b : Bool} (h : s.drawAt (n + i) = b) : (s.afterDraws n).drawAt i = b :=
  (drawAt_afterDraws s n i).trans h

/-! ## A take under given answers of the backend -/

section held
variable {v : Nat} (d : Nat) (hr : s.store.read slot = .value v)
include hr

theorem takeAndAdvance_exhausted (h0 : s.drawAt 0 = false) (hv : v = 2 ^ s.codeWidth - 1) :
    takeAndAdvance slot d s = .err (.counterExhausted slot v) (s.afterDraws 1) := by
  rw [takeAndAdvance_value slot d v s h0 hr, advance_exhausted (s := s.afterDraws 1) hv]

variable (hs : s.staged = []) (hv : v ≠ 2 ^ s.codeWidth - 1)
include hs hv

theorem takeAndAdvance_held (hcalls : s.callsSucceed 3) :
    takeAndAdvance slot d s = .ok v ((s.afterDraws 3).commitTo (s.store.write slot (v + 1))) := by
  rw [takeAndAdvance_value slot d v s (hcalls 0 (by omega)) hr,
    advance_ok (s := s.afterDraws 1) hv hs (drawAt_after (hcalls 1 (by omega))) (drawAt_after (hcalls 2 (by omega))),
    afterDraws_afterDraws, afterDraws_store]

theorem takeAndAdvance_held_writeFails (hcalls : s.callsSucceed 1) (h1 : s.drawAt 1 = true) :
    takeAndAdvance slot d s = .err (.storageError .write slot) (s.afterDraws 2) := by
  rw [takeAndAdvance_value slot d v s (hcalls 0 (by omega)) hr,
    advance_writeFails (s := s.afterDraws 1) hv hs (drawAt_after h1), afterDraws_afterDraws]

theorem takeAndAdvance_held_commitFails (hcalls : s.callsSucceed 2) (h2 : s.drawAt 2 = true) :
    takeAndAdvance slot d s = .err (.storageError .commit slot) (s.afterDraws 3) := by
  rw [takeAndAdvance_value slot d v s (hcalls 0 (by omega)) hr,
    advance_commitFails (s := s.afterDraws 1) hv hs (drawAt_after (hcalls 1 (by omega))) (drawAt_after h2),
    afterDraws_afterDraws]

end held

section absent
variable {d : Nat} (hr : s.store.read slot = .absent) (hs : s.staged = [])
include hr hs

theorem takeAndAdvance_default_writeFails (hcalls : s.callsSucceed 1) (h1 : s.drawAt 1 = true) :
    takeAndAdvance slot d s = .err (.storageError .write slot) (s.afterDraws 2) := by
  rw [takeAndAdvance_absent slot d s (hcalls 0 (by omega)) hr, takenCode,
    writeDurably_writeFails (s := s.afterDraws 1) d hs (drawAt_after h1), andThen_err, andThen_err,
    afterDraws_afterDraws]

theorem takeAndAdvance_default_commitFails (hcalls : s.callsSucceed 2) (h2 : s.drawAt 2 = true) :
    takeAndAdvance slot d s = .err (.storageError .commit slot) (s.afterDraws 3) := by
  rw [takeAndAdvance_absent slot d s (hcalls 0 (by omega)) hr, takenCode,
    writeDurably_commitFails (s := s.afterDraws 1) d hs (drawAt_after (hcalls 1 (by omega))) (drawAt_after h2),
    andThen_err, andThen_err, afterDraws_afterDraws]

/-- Once the read, the default's write and its commit have succeeded, what is left is the advance from the default. -/
theorem takeAndAdvance_default_stored (hcalls : s.callsSucceed 3) :
    takeAndAdvance slot d s = advance slot d ((s.afterDraws 3).commitTo (s.store.write slot d)) := by
  rw [takeAndAdvance_absent slot d s (hcalls 0 (by omega)) hr, takenCode,
    writeDurably_ok (s := s.afterDraws 1) d hs (drawAt_after (hcalls 1 (by omega))) (drawAt_after (hcalls 2 (by omega))),
    andThen_ok, andThen_ok, afterDraws_afterDraws, afterDraws_store]

theorem takeAndAdvance_default_exhausted (hcalls : s.callsSucceed 3) (hd : d = 2 ^ s.codeWidth - 1) :
    takeAndAdvance slot d s
      = .err (.counterExhausted slot d) ((s.afterDraws 3).commitTo (s.store.write slot d)) :=
  (takeAndAdvance_default_stored hr hs hcalls).trans (advance_exhausted hd)

variable (hd : d ≠ 2 ^ s.codeWidth - 1)
include hd

theorem takeAndAdvance_fresh (hcalls : s.callsSucceed 5) :
    takeAndAdvance slot d s = .ok d ((s.afterDraws 5).commitTo (s.store.write slot (d + 1))) := by
  rw [takeAndAdvance_default_stored hr hs fun i hi => hcalls i (by omega),
    advance_ok (s := (s.afterDraws 3).commitTo _) hd rfl (drawAt_after (hcalls 3 (by omega)))
      (drawAt_after (hcalls 4 (by omega)))]
  simp [Memory.write_write]

theorem takeAndAdvance_fresh_writeFails (hcalls : s.callsSucceed 3) (h3 : s.drawAt 3 = true) :
    takeAndAdvance slot d s
      = .err (.storageError .write slot) ((s.afterDraws 4).commitTo (s.store.write slot d)) := by
  rw [takeAndAdvance_default_stored hr hs hcalls,
    advance_writeFails (s := (s.afterDraws 3).commitTo _) hd rfl (drawAt_after h3)]
  simp

theorem takeAndAdvance_fresh_commitFails (hcalls : s.callsSucceed 4) (h4 : s.drawAt 4 = true) :
    takeAndAdvance slot d s
      = .err (.storageError .commit slot) ((s.afterDraws 5).commitTo (s.store.write slot d)) := by
  rw [takeAndAdvance_default_stored hr hs fun i hi => hcalls i (by omega),
    advance_commitFails (s := (s.afterDraws 3).commitTo _) hd rfl (drawAt_after (hcalls 3 (by omega)))
      (drawAt_after h4)]
  simp

end absent

/-! ## `TAKE_AND_ADVANCE` in RUN, its ends written as record updates -/

/-- In RUN the phase test lets the take run (R235). -/
theorem exec_takeAndAdvance (d : Nat) (hp : s.phase = .run) :
    exec (.takeAndAdvance slot d) s
      = complete ((takeAndAdvance slot d s).andThen fun c s => .ok (.code c) s) := by
  have hadm : admits opTakeAndAdvance s.phase s.config.resetReq = true := by rw [hp]; rfl
  exact congrArg complete (ifAdmitted_of hadm)

/-- Everything `TAKE_AND_ADVANCE` can do: the phase test refuses, the take succeeds, or it fails (R234, R141, R144). -/
theorem exec_takeAndAdvance_cases (slot : Slot) (d : Nat) (s : State) :
    (s.phase ≠ .run ∧ exec (.takeAndAdvance slot d) s = .next (s.raise (.phaseError opTakeAndAdvance s.phase))) ∨
    (∃ c m, s.phase = .run ∧ takeAndAdvance slot d s = .ok c m ∧
      exec (.takeAndAdvance slot d) s = .next (m.returns (.code c))) ∨
    (∃ e m, s.phase = .run ∧ takeAndAdvance slot d s = .err e m ∧
      exec (.takeAndAdvance slot d) s = .next (m.raise e)) := by
  by_cases hp : s.phase = .run
  · right
    rw [exec_takeAndAdvance d hp]
    cases htake : takeAndAdvance slot d s with
    | ok c m => exact .inl ⟨c, m, hp, rfl, rfl⟩
    | err e m => exact .inr ⟨e, m, hp, rfl, rfl⟩
  · have hadm : ¬ admits opTakeAndAdvance s.phase s.config.resetReq = true := fun h => hp (of_decide_eq_true h)
    exact .inl ⟨hp, congrArg complete (if_neg hadm)⟩

theorem commitTo_returns_eq (s : State) (m : Memory) (v : Result) (hs : s.staged = []) :
    (s.commitTo m).returns v = { s with store := m, result := some v } := by
  simp [State.commitTo, State.returns, hs]

theorem raise_eq (s : State) (e : ErrorRecord) (hs : s.staged = []) :
    s.raise e = { s with errlog := s.errlog ++ [e], result := some (.error e) } := by
  simp [State.raise, hs]

theorem commitTo_raise_eq (s : State) (m : Memory) (e : ErrorRecord) (hs : s.staged = []) :
    (s.commitTo m).raise e
      = { s with store := m, errlog := s.errlog ++ [e], result := some (.error e) } := by
  simp [State.commitTo, State.raise, hs]

section ends
variable {d n : Nat} (hp : s.phase = .run) (hs : s.staged = [])
include hp hs

theorem exec_take_ok {c : Nat} {m : Memory}
    (h : takeAndAdvance slot d s = .ok c ((s.afterDraws n).commitTo m)) :
    exec (.takeAndAdvance slot d) s = .next { s.afterDraws n with store := m, result := some (.code c) } := by
  rw [exec_takeAndAdvance d hp, h]
  exact congrArg Host.Outcome.next (commitTo_returns_eq (s.afterDraws n) m _ hs)

/-- A take that fails with no commit made (R144). -/
theorem exec_take_err {e : ErrorRecord} (h : takeAndAdvance slot d s = .err e (s.afterDraws n)) :
    exec (.takeAndAdvance slot d) s
      = .next { s.afterDraws n with errlog := s.errlog ++ [e], result := some (.error e) } := by
  rw [exec_takeAndAdvance d hp, h]
  exact congrArg Host.Outcome.next (raise_eq (s.afterDraws n) e hs)

/-- A take that fails after a commit (R144). -/
theorem exec_take_err_stored {e : ErrorRecord} {m : Memory}
    (h : takeAndAdvance slot d s = .err e ((s.afterDraws n).commitTo m)) :
    exec (.takeAndAdvance slot d) s
      = .next { s.afterDraws n with store := m, errlog := s.errlog ++ [e], result := some (.error e) } := by
  rw [exec_takeAndAdvance d hp, h]
  exact congrArg Host.Outcome.next (commitTo_raise_eq (s.afterDraws n) m e hs)

end ends

/-! ## The obligations on single calls -/

/-- Settles O15: the phase test admits the read in every phase, and the read answers the cell or fails. -/
theorem currentCodeReadsWithoutMutation : Obligations.CurrentCodeReadsWithoutMutation := by
  intro slot s
  have hexec : exec (.currentCode slot) s = complete ((memRead slot s).andThen fun cell s => .ok (.cell cell) s) := rfl
  rw [hexec]
  rcases memRead_cases slot s with ⟨h0, hr⟩ | ⟨h0, hr⟩ <;> rw [hr]
  · exact ⟨fun _ => rfl, fun hf => by simp [h0] at hf⟩
  · exact ⟨fun hf => by simp [h0] at hf, fun _ => rfl⟩

/-- Settles O16: the take's one durable write, then the return. -/
theorem takeReturnsTheHeldCodeAndCommitsTheNext : Obligations.TakeReturnsTheHeldCodeAndCommitsTheNext :=
  fun slot d v s hp hs hcalls hr hv =>
    ⟨_, exec_take_ok hp hs (takeAndAdvance_held d hr hs hv hcalls), rfl, s.store.read_write_same slot (v + 1),
      fun _ ha => s.store.read_write_other (v + 1) ha⟩

/-- Settles O17: the default's write is replaced by its successor's. -/
theorem takeOnAnAbsentSlotUsesTheDefault : Obligations.TakeOnAnAbsentSlotUsesTheDefault :=
  fun slot d s hp hs hcalls hr hd =>
    ⟨_, exec_take_ok hp hs (takeAndAdvance_fresh hr hs hd hcalls), rfl, s.store.read_write_same slot (d + 1),
      fun _ ha => s.store.read_write_other (d + 1) ha⟩

/-- Settles O18: the exhaustion check comes before the advance's write, and after a default's own commit. -/
theorem exhaustedCounterIsNeverSentOrWrapped : Obligations.ExhaustedCounterIsNeverSentOrWrapped :=
  fun _ d _ hp hs =>
    ⟨fun hcalls hr => exec_take_err hp hs (takeAndAdvance_exhausted d hr (hcalls 0 (by omega)) rfl),
      fun hcalls hr hd => exec_take_err_stored hp hs (takeAndAdvance_default_exhausted hr hs hcalls hd)⟩

/-- Settles O19: one row per failing call, the read, the default's write and commit, the advance's write and commit. -/
theorem takeFailureLeavesTheLastCommittedValue : Obligations.TakeFailureLeavesTheLastCommittedValue := by
  intro slot d s hp hs
  refine ⟨fun h0 => ?_, fun hr hcalls h1 => ?_, fun hr hcalls h2 => ?_, fun hr hd hcalls h3 => ?_,
    fun hr hd hcalls h4 => ?_, fun c hr hc => ⟨fun hcalls h1 => ?_, fun hcalls h2 => ?_⟩⟩
  · exact exec_take_err hp hs (takeAndAdvance_readFails slot d s h0)
  · exact exec_take_err hp hs (takeAndAdvance_default_writeFails hr hs hcalls h1)
  · exact exec_take_err hp hs (takeAndAdvance_default_commitFails hr hs hcalls h2)
  · exact exec_take_err_stored hp hs (takeAndAdvance_fresh_writeFails hr hs hd hcalls h3)
  · exact exec_take_err_stored hp hs (takeAndAdvance_fresh_commitFails hr hs hd hcalls h4)
  · exact exec_take_err hp hs (takeAndAdvance_held_writeFails d hr hs hc hcalls h1)
  · exact exec_take_err hp hs (takeAndAdvance_held_commitFails d hr hs hc hcalls h2)

/-! ## Calls in sequence -/

theorem execAll_cons {i : Instr} {t : State} (rest : List Instr) (h : exec i s = .next t) :
    execAll (i :: rest) s = execAll rest t := by
  rw [execAll, h]

/-- The state right after a successful take of c: in RUN, c returned and its successor held. -/
structure JustTook (slot : Slot) (c : Nat) (s : State) : Prop where
  run : s.phase = .run
  nothingStaged : s.staged = []
  returned : s.result = some (.code c)
  held : s.store.read slot = .value (c + 1)

/-- A successful take in RUN, and what a call after it depends on. -/
theorem exec_take_justTook {d c k : Nat} (hp : s.phase = .run) (hs : s.staged = [])
    (h : takeAndAdvance slot d s = .ok c ((s.afterDraws k).commitTo (s.store.write slot (c + 1)))) :
    ∃ t, exec (.takeAndAdvance slot d) s = .next t ∧ JustTook slot c t ∧ t.errlog = s.errlog ∧
      t.codeWidth = s.codeWidth ∧ ∀ i, t.drawAt i = s.drawAt (k + i) :=
  ⟨_, exec_take_ok hp hs h, ⟨hp, hs, rfl, s.store.read_write_same slot (c + 1)⟩, rfl, rfl, drawAt_afterDraws s k⟩

/-- `n` more takes return the next `n` codes (R145). -/
theorem JustTook.takes {c : Nat} (h : JustTook slot c s) (n d : Nat) (hlast : c + n < 2 ^ s.codeWidth - 1)
    (hcalls : s.callsSucceed (3 * n)) :
    ∃ t, execAll (List.replicate n (.takeAndAdvance slot d)) s = .next t ∧ JustTook slot (c + n) t ∧
      t.errlog = s.errlog := by
  induction n generalizing s c with
  | zero => exact ⟨s, rfl, h, rfl⟩
  | succ n ih =>
    have htake := takeAndAdvance_held d h.held h.nothingStaged (by omega) fun i hi => hcalls i (by omega)
    obtain ⟨m, hexec, hm, herr, hcw, hdraw⟩ := exec_take_justTook h.run h.nothingStaged htake
    obtain ⟨t, hrest, ht, herr'⟩ := ih hm (by rw [hcw]; omega) fun i hi => by rw [hdraw]; exact hcalls _ (by omega)
    exact ⟨t, (execAll_cons _ hexec).trans hrest, by rwa [Nat.add_right_comm] at ht, herr'.trans herr⟩

/-- Settles O20: the first take uses the default, and each later one the code that the one before it left. -/
theorem freshSlotYieldsConsecutiveCodes : Obligations.FreshSlotYieldsConsecutiveCodes := by
  intro n slot d s hp hs hr hlast hcalls
  have htake := takeAndAdvance_fresh hr hs (d := d) (by omega) fun i hi => hcalls i (by omega)
  obtain ⟨m, hexec, hm, herr, hcw, hdraw⟩ := exec_take_justTook hp hs htake
  obtain ⟨t, hrest, ht, herr'⟩ := hm.takes n d (by rw [hcw]; omega) fun i hi => by
    rw [hdraw]; exact hcalls _ (by omega)
  exact ⟨t, (execAll_cons _ hexec).trans hrest, ht.returned, ht.held, herr'.trans herr⟩

end Sys2Proof.Machine
end

section
/-! SUPPORT. The rolling-code family, counters over time: no move but one that may reset lowers a counter (R146, R150). -/

namespace Sys2Proof.Machine

/-! ## Stores whose counters do not go down -/

/-- Each value of `m` is held in `m'` too, or a larger one is. -/
def Memory.NotLowered (m m' : Memory) : Prop :=
  ∀ slot v, m.read slot = .value v → ∃ w, m'.read slot = .value w ∧ v ≤ w

theorem Memory.NotLowered.refl (m : Memory) : m.NotLowered m := fun _ v h => ⟨v, h, Nat.le_refl v⟩

theorem Memory.NotLowered.trans {m m' m'' : Memory} (h : m.NotLowered m') (h' : m'.NotLowered m'') :
    m.NotLowered m'' := by
  intro slot v hv
  obtain ⟨w, hw, hvw⟩ := h slot v hv
  obtain ⟨x, hx, hwx⟩ := h' slot w hw
  exact ⟨x, hx, hvw.trans hwx⟩

/-- A write of at least what its slot holds lowers nothing. -/
theorem Memory.notLowered_write {m : Memory} {a : Slot} {w : Nat} (h : ∀ v, m.read a = .value v → v ≤ w) :
    m.NotLowered (m.write a w) := by
  intro slot v hv
  by_cases ha : slot = a
  · subst ha
    exact ⟨w, m.read_write_same slot w, h v hv⟩
  · exact ⟨v, (m.read_write_other w ha).trans hv, Nat.le_refl v⟩

/-- `t` lowers and loses none of the counters of `m`, and nothing is left staged (R54, R150). -/
structure KeepsCounters (m : Memory) (t : State) : Prop where
  nothingStaged : t.staged = []
  notLowered : m.NotLowered t.store

section
variable {s t : State}

theorem KeepsCounters.trans {u : State} (h : KeepsCounters s.store t) (h' : KeepsCounters t.store u) :
    KeepsCounters s.store u :=
  ⟨h'.nothingStaged, h.notLowered.trans h'.notLowered⟩

theorem KeepsCounters.of_store_eq (hs : t.staged = []) (h : t.store = s.store) : KeepsCounters s.store t :=
  ⟨hs, h ▸ .refl _⟩

theorem KeepsCounters.raise (h : KeepsCounters s.store t) (e : ErrorRecord) : KeepsCounters s.store (t.raise e) :=
  ⟨rfl, h.notLowered⟩

/-! ## Operations -/

/-- A take commits the successor of the code held, or leaves the held code; where the slot was absent there is nothing to
lower. -/
theorem takeAndAdvance_keepsCounters (slot : Slot) (d : Nat) (hs : s.staged = []) :
    KeepsCounters s.store (takeAndAdvance slot d s).state := by
  cases htake : takeAndAdvance slot d s with
  | ok c t =>
    obtain ⟨n, rfl, -, hread⟩ := takeAndAdvance_ok hs htake
    refine ⟨rfl, Memory.notLowered_write fun v hv => ?_⟩
    rcases hread with hc | ⟨habs, -⟩
    · cases hc.symm.trans hv; exact Nat.le_succ c
    · cases habs.symm.trans hv
  | err e t =>
    obtain ⟨n, m, rfl, rfl | ⟨habs, rfl⟩, -⟩ := takeAndAdvance_err hs htake
    · exact .of_store_eq rfl rfl
    · exact ⟨rfl, Memory.notLowered_write fun v hv => by cases habs.symm.trans hv⟩

theorem KeepsCounters.andThen_ok {α β : Type} {r : Res α} (h : KeepsCounters s.store r.state) (f : α → β) :
    KeepsCounters s.store (r.andThen fun a s => .ok (f a) s).state := by
  cases r with
  | ok a m => exact h
  | err e m => exact h

theorem prepareSend_keepsCounters (r : Nat) (cmd : Command) (hs : s.staged = []) :
    KeepsCounters s.store (prepareSend r cmd s).state := by
  rcases prepareSend_cases r cmd s with ⟨_, h⟩ | ⟨_, _, h⟩ | ⟨p, _, _, h⟩ <;> rw [h]
  · exact .of_store_eq hs rfl
  · exact .of_store_eq hs rfl
  · exact (takeAndAdvance_keepsCounters p.slot p.defaultCode hs).andThen_ok _

theorem burstWork_keepsCounters {i : Instr} {r : Res (Frame × Result)} (hs : s.staged = []) (h : burstWork i s = some r) :
    KeepsCounters s.store r.state := by
  cases i <;> cases h
  case transmitBurst g =>
    obtain ⟨hstaged, hstore, -⟩ := (prepareTransmit_effect g hs).unchanged
    exact .of_store_eq hstaged hstore
  all_goals exact prepareSend_keepsCounters _ _ hs

theorem KeepsCounters.finishBurst {r : Res (Frame × Result)} (h : KeepsCounters s.store r.state) :
    KeepsCounters s.store (finishBurst r) := by
  cases r with
  | ok gv m =>
    simp only [Machine.finishBurst, transmit_eq]
    exact ⟨h.nothingStaged, h.notLowered⟩
  | err e m => exact h.raise e

theorem KeepsCounters.startBurst {r : Res (Frame × Result)} (h : KeepsCounters s.store r.state) :
    KeepsCounters s.store (startBurst r) := by
  cases r with
  | ok gv m => exact ⟨h.nothingStaged, h.notLowered⟩
  | err e m => exact h.raise e

theorem exec_takeAndAdvance_keepsCounters {slot : Slot} {d : Nat} (hs : s.staged = [])
    (hx : exec (.takeAndAdvance slot d) s = .next t) : KeepsCounters s.store t := by
  have h := takeAndAdvance_keepsCounters slot d hs
  rcases exec_takeAndAdvance_cases slot d s with ⟨_, he⟩ | ⟨c, m, _, htake, he⟩ | ⟨e, m, _, htake, he⟩ <;>
    cases he.symm.trans hx
  · exact (KeepsCounters.of_store_eq hs rfl).raise _
  · rw [htake] at h; exact ⟨h.nothingStaged, h.notLowered⟩
  · rw [htake] at h; exact h.raise e

theorem StoreEffect.keepsCounters (h : StoreEffect [] s t) : KeepsCounters s.store t := by
  obtain ⟨hstaged, hstore, -⟩ := h.unchanged
  exact .of_store_eq hstaged hstore

/-- `RESET_ALL` is admitted exactly where a move may reset (R235). -/
theorem admits_resetAll (s : State) : admits opResetAll s.phase s.config.resetReq = mayReset s := rfl

theorem exec_resetAll_of_not_mayReset (l : List (Slot × Nat)) (hm : mayReset s = false) :
    exec (.resetAll l) s = .next (s.raise (.phaseError opResetAll s.phase)) := by
  simp [exec, execResetAll, admits_resetAll, hm]

/-- Of the operations only `RESET_ALL` can lower a counter, and only where it is admitted (R150). -/
theorem exec_keepsCounters {i : Instr} (hs : s.staged = []) (hm : mayReset s = false) (hx : exec i s = .next t) :
    KeepsCounters s.store t := by
  cases hb : burstWork i s with
  | some r =>
    rw [exec_of_burstWork hb] at hx
    cases hx
    exact (burstWork_keepsCounters hs hb).finishBurst
  | none =>
    cases i <;> try contradiction
    case buildFrame rid cmd code => exact (execBuildFrame_effect hs hx).keepsCounters
    case currentCode slot => exact (execCurrentCode_effect hs hx).keepsCounters
    case takeAndAdvance slot d => exact exec_takeAndAdvance_keepsCounters hs hx
    case resetAll l =>
      cases (exec_resetAll_of_not_mayReset l hm).symm.trans hx
      exact (KeepsCounters.of_store_eq hs rfl).raise _
    case reservedSelector op => cases hx; exact (KeepsCounters.of_store_eq hs rfl).raise _
    case up rid code => exact (execBuildFrame_effect hs hx).keepsCounters
    case stop rid code => exact (execBuildFrame_effect hs hx).keepsCounters
    case down rid code => exact (execBuildFrame_effect hs hx).keepsCounters
    case prog rid code => exact (execBuildFrame_effect hs hx).keepsCounters

theorem execStepwise_keepsCounters {i : Instr} (hs : s.staged = []) (hm : mayReset s = false)
    (hx : execStepwise i s = .next t) : KeepsCounters s.store t := by
  unfold execStepwise at hx
  cases hb : burstWork i s with
  | none => rw [hb] at hx; exact exec_keepsCounters hs hm hx
  | some r => rw [hb] at hx; cases hx; exact (burstWork_keepsCounters hs hb).startBurst

/-! ## Moves -/

theorem serveWith_keepsCounters {body : Instr → State → Host.Outcome State Fault Refusal} {req : Request}
    (hbody : ∀ {i}, body i s = .next t → KeepsCounters s.store t) (hs : s.staged = [])
    (hx : serveWith body req s = .next t) : KeepsCounters s.store t := by
  rcases serveWith_next hx with ⟨i, _, hi⟩ | ⟨bytes, rfl⟩
  · exact hbody hi
  · exact (KeepsCounters.of_store_eq hs rfl).raise _

/-- A boot sequence that does not reset leaves the store: it halts, or enters RUN, or has run already (R251). -/
theorem boot_keepsCounters (hs : s.staged = []) (hm : mayReset s = false) : KeepsCounters s.store (boot s) := by
  unfold boot
  split
  next hp =>
    have hreq : s.config.resetReq = false := by simpa [mayReset, hp] using hm
    rcases bootSequence_cases s with ⟨reason, r1, r2, _, he⟩ | ⟨_, _, he⟩ | ⟨_, htrue, _⟩
    · rw [he]; exact .of_store_eq rfl rfl
    · rw [he]; exact .of_store_eq hs rfl
    · rw [hreq] at htrue; cases htrue
  next => exact .of_store_eq hs rfl

theorem afterCut_keepsCounters {cfg : Configuration} {before : State} {o : Host.Outcome State Fault Refusal}
    (ho : ∀ u, o = .next u → KeepsCounters s.store u) (hx : afterCut cfg before o = .next t) :
    KeepsCounters s.store t := by
  cases o with
  | next u =>
    cases hx
    exact ⟨rfl, (ho u rfl).notLowered⟩
  | fault f => cases hx
  | refused r => cases hx

theorem handleEvent_keepsCounters {e : Event} (hs : s.staged = []) (hm : mayReset s = false)
    (hx : handleEvent e s = .next t) : KeepsCounters s.store t := by
  cases e with
  | operation req => exact serveWith_keepsCounters (exec_keepsCounters hs hm) hs hx
  | stepwise req => exact serveWith_keepsCounters (execStepwise_keepsCounters hs hm) hs hx
  | tick => cases hx; exact .of_store_eq hs rfl
  | boot => cases hx; exact boot_keepsCounters hs hm
  | restart cfg => cases hx; exact .of_store_eq rfl rfl
  | restartInOperation req n cfg =>
    exact afterCut_keepsCounters (fun u hu =>
      serveWith_keepsCounters (s := { s with draws := cutDraws n }) (exec_keepsCounters hs hm) hs hu) hx
  | restartInBoot n cfg =>
    have hb := boot_keepsCounters (s := { s with draws := cutDraws n }) hs hm
    exact afterCut_keepsCounters (o := .next _) (fun u hu => by cases hu; exact hb) hx

/-- One segment of a burst does not touch the store (R176). -/
theorem segmentStep_keepsCounters {g : Frame} {k : Fin 3} {j : Nat} (hs : s.staged = [])
    (hx : segmentStep g k j s = .next t) : KeepsCounters s.store t := by
  rcases segmentStep_cases g k j s with ⟨seg, _, he⟩ | ⟨_, he⟩ <;> rw [he] at hx <;> cases hx
  unfold advanceTx
  split; · exact .of_store_eq hs rfl
  split; · exact .of_store_eq hs rfl
  split <;> exact .of_store_eq hs rfl

theorem step_keepsCounters (hs : s.staged = []) (hm : mayReset s = false) (hx : step s = .next t) :
    KeepsCounters s.store t := by
  rcases step_cases s with ⟨_, _, he⟩ | ⟨e, rest, _, _, he⟩ | ⟨g, k, j, cfg, rest, _, _, he⟩ |
    ⟨g, k, j, rest, _, _, he⟩ | ⟨g, k, j, _, _, he⟩ <;> rw [he] at hx
  · cases hx; exact boot_keepsCounters hs hm
  · exact handleEvent_keepsCounters (s := { s with inbox := rest }) hs hm hx
  · cases hx; exact .of_store_eq rfl rfl
  · exact segmentStep_keepsCounters (s := { s with inbox := rest }) hs hx
  · exact segmentStep_keepsCounters hs hx

theorem RunWithoutReset.keepsCounters {n : Nat} (hs : s.staged = []) (h : RunWithoutReset n s t) :
    KeepsCounters s.store t := by
  induction n generalizing s with
  | zero => cases h; exact .of_store_eq hs rfl
  | succ n ih =>
    obtain ⟨hm, m, hstep, hrest⟩ := h
    have hfirst := step_keepsCounters hs hm hstep
    exact hfirst.trans (ih hfirst.nothingStaged hrest)

end

/-- Settles O22, the step's lemma about the store. -/
theorem onlyAResetLowersACounter : Obligations.OnlyAResetLowersACounter :=
  fun _ _ hs hm hx => (step_keepsCounters hs hm hx).notLowered

/-! ## Two takes, one after the other -/

/-- A take that returned c found it in its slot or used it as the default, and left its successor committed. -/
theorem exec_take_code {slot : Slot} {d c : Nat} {s t : State} (hs : s.staged = [])
    (hx : exec (.takeAndAdvance slot d) s = .next t) (hc : t.result = some (.code c)) :
    t.staged = [] ∧ t.store.read slot = .value (c + 1) ∧
      (s.store.read slot = .value c ∨ s.store.read slot = .absent ∧ c = d) := by
  rcases exec_takeAndAdvance_cases slot d s with ⟨_, he⟩ | ⟨c', m, _, htake, he⟩ | ⟨e, m, _, _, he⟩ <;>
    cases he.symm.trans hx <;> cases hc
  obtain ⟨n, rfl, -, hread⟩ := takeAndAdvance_ok hs htake
  exact ⟨rfl, s.store.read_write_same slot (c + 1), hread⟩

/-- Settles O21: the earlier take leaves c + 1, no move lowers it, and the later take returns what is held. -/
theorem laterTakeReturnsALargerCode : Obligations.LaterTakeReturnsALargerCode := by
  intro slot d d' c c' n s s1 s2 s3 hs hfirst hc hrun hlater hc'
  obtain ⟨hs1, hleft, -⟩ := exec_take_code hs hfirst hc
  have hkeeps := hrun.keepsCounters hs1
  obtain ⟨w, hw, hcw⟩ := hkeeps.notLowered slot (c + 1) hleft
  obtain ⟨-, -, hread | ⟨habs, -⟩⟩ := exec_take_code hkeeps.nothingStaged hlater hc'
  · cases hread.symm.trans hw; exact hcw
  · cases habs.symm.trans hw

end Sys2Proof.Machine
end

section
/-! SUPPORT. The rolling-code family, `RESET_ALL` (R148, R149): run to its end, stopped by a failing call, and cut by a
restart (R250). -/

namespace Sys2Proof.Machine

/-! ## The first failing call -/

/-- Store call number `n` is the first that fails. -/
structure FirstFailure (s : State) (n : Nat) : Prop where
  before : s.callsSucceed n
  fails : s.drawAt n = true

theorem FirstFailure.le_of_callsSucceed {s : State} {n m : Nat} (h : FirstFailure s n) (hm : s.callsSucceed m) :
    m ≤ n := by
  by_contra hlt
  exact Bool.false_ne_true ((hm n (by omega)).symm.trans h.fails)

theorem FirstFailure.unique {s : State} {n m : Nat} (h : FirstFailure s n) (h' : FirstFailure s m) : n = m :=
  Nat.le_antisymm (h'.le_of_callsSucceed h.before) (h.le_of_callsSucceed h'.before)

/-! ## The writes of `RESET_ALL` under given answers of the backend -/

section
variable {l : List (Slot × Nat)} {s : State} (hs : s.staged = [])
include hs

theorem resetEach_ok (hcalls : s.callsSucceed (2 * l.length)) :
    resetEach l s = .ok () ((s.afterDraws (2 * l.length)).commitTo (s.store.writeAll l)) := by
  rcases resetEach_cases l s hs with ⟨_, h⟩ | ⟨before, slot, d, after, stage, n, rfl, hn, hbefore, hfail, _⟩
  · exact h
  · have := FirstFailure.le_of_callsSucceed ⟨hbefore, hfail⟩ hcalls
    simp only [List.length_append, List.length_cons] at this
    omega

/-- A write or commit that fails leaves the writes before it (R148). -/
theorem resetEach_err {before after : List (Slot × Nat)} {slot : Slot} {d n : Nat} {stage : Stage}
    (hl : l = before ++ (slot, d) :: after)
    (hn : n = 2 * before.length ∧ stage = .write ∨ n = 2 * before.length + 1 ∧ stage = .commit)
    (hfail : FirstFailure s n) :
    resetEach l s = .err (.storageError stage slot) ((s.afterDraws (n + 1)).commitTo (s.store.writeAll before)) := by
  rcases resetEach_cases l s hs with ⟨hcalls, _⟩ | ⟨before', slot', d', after', stage', n', hl', hn', hok, hf, he⟩
  · have := hfail.le_of_callsSucceed hcalls
    simp only [hl, List.length_append, List.length_cons] at this
    omega
  · obtain rfl : n = n' := hfail.unique ⟨hok, hf⟩
    have hlen : before.length = before'.length := by omega
    obtain ⟨rfl, hrest⟩ := List.append_inj (hl.symm.trans hl') hlen
    cases hrest
    have hstage : stage = stage' := by
      rcases hn with ⟨hw, rfl⟩ | ⟨hc, rfl⟩ <;> rcases hn' with ⟨hw', rfl⟩ | ⟨hc', rfl⟩
      · rfl
      · omega
      · omega
      · rfl
    rw [he, hstage]

/-- Whatever call fails first, the slots committed before it are those of the list's first `n / 2` entries: slot i is
committed by call 2i + 1 (R149). -/
theorem resetEach_store {n : Nat} (hfail : FirstFailure s n) :
    (resetEach l s).state.store = s.store.writeAll (l.take (n / 2)) := by
  rcases resetEach_cases l s hs with ⟨hcalls, he⟩ | ⟨before, slot, d, after, stage, m, rfl, hm, hok, hf, he⟩ <;>
    rw [he]
  · have hle := hfail.le_of_callsSucceed hcalls
    rw [List.take_of_length_le (by omega)]
    rfl
  · obtain rfl : n = m := hfail.unique ⟨hok, hf⟩
    have hlen : n / 2 = before.length := by omega
    rw [hlen, List.take_left]
    rfl

end

/-! ## `RESET_ALL` where it is admitted -/

theorem exec_resetAll_of_mayReset {s : State} (l : List (Slot × Nat)) (hm : mayReset s = true) :
    exec (.resetAll l) s = .next (finishReset (resetEach l s)) := by
  simp [exec, execResetAll, admits_resetAll, hm]

theorem mayReset_of {s : State} (hp : s.phase = .startup) (hreq : s.config.resetReq = true) : mayReset s = true := by
  simp [mayReset, hp, hreq]

/-- Settles O23: every write goes in, in list order, and a list without repeats has one write for each of its slots. -/
theorem resetAllWritesEveryDefault : Obligations.ResetAllWritesEveryDefault := by
  intro l s hp hreq hs hcalls
  rw [exec_resetAll_of_mayReset l (mayReset_of hp hreq), resetEach_ok hs hcalls]
  refine ⟨_, rfl, commitTo_returns_eq (s.afterDraws _) _ _ hs, fun hnodup sd hsd => ?_, fun a ha => ?_⟩
  · exact Memory.read_writeAll_mem l s.store hnodup sd hsd
  · exact Memory.read_writeAll_other l s.store a ha

/-- Settles O24: the writes before the failing call are committed, and it names no slot of theirs. -/
theorem resetAllStopsAtTheFirstFailure : Obligations.ResetAllStopsAtTheFirstFailure := by
  intro pre post slot d stage n s hp hreq hs hn hcalls hfail hnodup
  have hstage : n = 2 * pre.length ∧ stage = .write ∨ n = 2 * pre.length + 1 ∧ stage = .commit := by
    simpa using hn
  rw [List.map_append] at hnodup
  obtain ⟨hpre, -, hdisjoint⟩ := List.nodup_append'.1 hnodup
  rw [exec_resetAll_of_mayReset _ (mayReset_of hp hreq), resetEach_err hs rfl hstage ⟨hcalls, hfail⟩]
  refine ⟨_, rfl, ?_, fun sd hsd => ?_, fun sd hsd => ?_⟩
  · rw [finishReset, commitTo_raise_eq (s.afterDraws _) _ _ hs]
    rfl
  · exact Memory.read_writeAll_mem pre s.store hpre sd hsd
  · exact Memory.read_writeAll_other pre s.store sd.1 fun hmem => hdisjoint hmem (List.mem_map_of_mem hsd)

/-! ## A restart inside `RESET_ALL` -/

/-- The state in which the work that a restart cuts before call `n` runs (log 16). -/
def cutState (n : Nat) (s : State) : State := { s with draws := cutDraws n }

theorem cutState_firstFailure (n : Nat) (s : State) : FirstFailure (cutState n s) n where
  before := fun i hi => by
    simp [State.drawAt, cutState, cutDraws, List.getElem?_append_left, hi]
  fails := by simp [State.drawAt, cutState, cutDraws]

/-- Work on `s` that keeps the width and the events, and leaves the store `m`: all that a restart which cuts it lets
through (R250, R56). -/
structure LeavesStore (s u : State) (m : Memory) : Prop where
  codeWidth : u.codeWidth = s.codeWidth
  inbox : u.inbox = s.inbox
  store : u.store = m

theorem afterCut_of_leavesStore (cfg : Configuration) (n : Nat) {s u : State} {m : Memory} (hs : s.staged = [])
    (h : LeavesStore (cutState n s) u m) :
    afterCut cfg s (.next u) = .next { s with
      config := cfg, phase := .startup, line := .low, tx := .idle, trace := [], errlog := [], result := none,
      burstResult := none, store := m } := by
  obtain ⟨hcw, hin, rfl⟩ := h
  simp [afterCut, restart, hcw, hin, hs, cutState]

section
variable {l : List (Slot × Nat)} {n : Nat} {s : State} (hs : s.staged = []) (hfail : FirstFailure s n)
include hs hfail

/-- Both ends of `RESET_ALL`, a host's and the boot sequence's, leave the slots committed before the failing call. -/
theorem resetEach_leavesStore :
    LeavesStore s (finishReset (resetEach l s)) (s.store.writeAll (l.take (n / 2))) ∧
    LeavesStore s (finishBoot (resetEach l s)) (s.store.writeAll (l.take (n / 2))) := by
  rw [← resetEach_store hs hfail]
  have hkept := resetEach_storeOnly l s
  cases hr : resetEach l s <;> rw [hr] at hkept <;>
    exact ⟨⟨hkept.codeWidth, hkept.inbox, rfl⟩, ⟨hkept.codeWidth, hkept.inbox, rfl⟩⟩

/-- A boot sequence that resets stops at the first failing call of its `RESET_ALL` (R251). -/
theorem boot_leavesStore_of_reset (hp : s.phase = .startup) (hcheck : configCheck s.codeWidth s.config = none)
    (hreq : s.config.resetReq = true) :
    LeavesStore s (boot s) (s.store.writeAll ((profileDefaults s.config).take (n / 2))) := by
  have hboot : boot s = finishBoot (resetEach (profileDefaults s.config) s) := by
    simp [boot, bootSequence, hp, hcheck, hreq]
  rw [hboot]
  exact (resetEach_leavesStore hs hfail).2

end

/-- A boot sequence that resets nothing leaves the store: it halts, or enters RUN, or has run already. -/
theorem boot_leavesStore_of_no_reset {s : State}
    (h : ¬ (s.phase = .startup ∧ configCheck s.codeWidth s.config = none ∧ s.config.resetReq = true)) :
    LeavesStore s (boot s) s.store := by
  unfold boot
  split
  next hp =>
    rcases bootSequence_cases s with ⟨_, _, _, _, he⟩ | ⟨_, _, he⟩ | ⟨hcheck, hreq, _⟩
    · rw [he]; exact ⟨rfl, rfl, rfl⟩
    · rw [he]; exact ⟨rfl, rfl, rfl⟩
    · exact absurd ⟨hp, hcheck, hreq⟩ h
  next => exact ⟨rfl, rfl, rfl⟩

/-- A request for `RESET_ALL` whose defaults fit, where it is admitted (R89, R148). -/
theorem serve_resetAll (args : Operands) (s : State) (hm : mayReset s = true)
    (hfit : ∀ sd ∈ args.defaults, sd.2 < 2 ^ s.codeWidth) :
    serve (.select 0x04#8 args) s = .next (finishReset (resetEach args.defaults s)) := by
  have hdecode : decode (.select 0x04#8 args) = .ok (.resetAll args.defaults) := rfl
  have hw : (Instr.resetAll args.defaults).wellFormed s.codeWidth = true := by simpa [Instr.wellFormed] using hfit
  simp only [serve, serveWith, hdecode, hw, if_true, exec_resetAll_of_mayReset _ hm]

/-- Settles O59: the cut call is the first failing one, and the restart lets only the store through. -/
theorem cutResetKeepsTheSlotsBeforeTheCut : Obligations.CutResetKeepsTheSlotsBeforeTheCut := by
  intro n cfg rest s ht hs
  have hcut := cutState_firstFailure n { s with inbox := rest }
  refine ⟨fun hi => ?_, fun args hi hp hreq hfit => ?_⟩
  · refine (step_of_idle_event ht hi).trans (afterCut_of_leavesStore cfg n (s := { s with inbox := rest }) hs ?_)
    split
    next h =>
      obtain ⟨hp, hcheck, hreq⟩ := h
      exact boot_leavesStore_of_reset hs hcut hp hcheck hreq
    next h => exact boot_leavesStore_of_no_reset h
  · have hserve := serve_resetAll args (cutState n { s with inbox := rest }) (mayReset_of hp hreq) hfit
    have hleft := (resetEach_leavesStore (l := args.defaults) (s := cutState n { s with inbox := rest }) hs hcut).1
    exact (step_of_idle_event ht hi).trans ((congrArg (afterCut cfg { s with inbox := rest }) hserve).trans
      (afterCut_of_leavesStore cfg n hs hleft))

end Sys2Proof.Machine
end

section
/-! SUPPORT. The transmitter family, lists of segments: one transmission's parts, counts and durations (R172 to R175),
merging (R182) and jitter (R177). -/

namespace Sys2Proof.Machine

/-! ## One physical transmission -/

/-- What precedes the data bits of a transmission: wake on the first only, hardware syncs, software sync (R172). -/
def preamble (first : Bool) : List Segment :=
  wakePart first ++ repeated (syncCount first) hwSyncSegments ++ swSyncSegments

theorem frameSegments_eq (g : Frame) (first : Bool) :
    frameSegments g first = preamble first ++ dataSegments g ++ silenceSegments := rfl

theorem length_preamble (first : Bool) : (preamble first).length = if first then 8 else 16 := by cases first <;> rfl

theorem totalUs_preamble (first : Bool) : totalUs (preamble first) = if first then 114410 else 41030 := by
  cases first <;> rfl

theorem take_frameSegments (g : Frame) (first : Bool) :
    (frameSegments g first).take (if first then 8 else 16) = preamble first := by
  rw [frameSegments_eq, List.append_assoc, List.take_left' (length_preamble first)]

theorem drop_frameSegments (g : Frame) (first : Bool) :
    (frameSegments g first).drop (if first then 120 else 128) = silenceSegments := by
  refine List.drop_left' (l₁ := preamble first ++ dataSegments g) ?_
  rw [List.length_append, length_preamble, length_dataSegments]
  cases first <;> rfl

/-- Settles O25, by the parts of a transmission. -/
theorem transmissionSequence : Obligations.TransmissionSequence := fun g =>
  ⟨take_frameSegments g true, take_frameSegments g false, drop_frameSegments g true, drop_frameSegments g false⟩

/-! ## Durations -/

/-- Groups of one duration add up to their number times it. -/
theorem totalUs_flatMap_of_const {α : Type} {f : α → List Segment} {d : Nat} (hf : ∀ a, totalUs (f a) = d)
    (l : List α) : totalUs (l.flatMap f) = l.length * d := by
  induction l with
  | nil => simp
  | cons a l ih => rw [List.flatMap_cons, totalUs_append, hf, ih, List.length_cons, Nat.succ_mul, Nat.add_comm]

theorem totalUs_bitSegments (b : Bool) : totalUs (bitSegments b) = 1280 := by cases b <;> rfl

theorem totalUs_dataSegments (g : Frame) : totalUs (dataSegments g) = 71680 := by
  rw [dataSegments, totalUs_flatMap_of_const fun n => totalUs_bitSegments (airBit g n), List.length_range]

theorem totalUs_frameSegments (g : Frame) (first : Bool) :
    totalUs (frameSegments g first) = if first then 216505 else 143125 := by
  rw [frameSegments_eq, totalUs_append, totalUs_append, totalUs_preamble, totalUs_dataSegments]
  cases first <;> rfl

theorem length_burst (g : Frame) : (burst g).length = 379 := by simp [burst, length_frameSegments]

theorem totalUs_burst (g : Frame) : totalUs (burst g) = 502755 := by simp [burst, totalUs_frameSegments]

/-- Settles O27: no count and no duration depends on a bit of the frame. -/
theorem transmissionCountsAndDurations : Obligations.TransmissionCountsAndDurations := fun g =>
  ⟨length_dataSegments g, totalUs_dataSegments g, length_frameSegments g true, totalUs_frameSegments g true,
    length_frameSegments g false, totalUs_frameSegments g false, length_burst g, totalUs_burst g⟩

/-- Each segment of a real waveform adds at most `JITTER_US` to the deviation of the whole (R177). -/
theorem withinJitter.totalUs_le {nominal real : List Segment} (h : withinJitter nominal real) :
    totalUs real ≤ totalUs nominal + nominal.length * Config.jitterUs ∧
      totalUs nominal ≤ totalUs real + nominal.length * Config.jitterUs := by
  unfold withinJitter at h
  induction h with
  | nil => simp
  | cons hseg _ ih =>
    obtain ⟨_, hshort, hlong⟩ := hseg
    simp only [totalUs_cons, List.length_cons, Nat.succ_mul]
    omega

/-- Settles O32, from the count and the nominal duration of a burst. -/
theorem realBurstDurationIsWithinTheJitter : Obligations.RealBurstDurationIsWithinTheJitter := by
  intro g real h
  simpa only [length_burst, totalUs_burst] using h.totalUs_le

/-! ## Merging -/

theorem mergeInto_cons_of_eq {seg h : Segment} (heq : seg.level = h.level) (t : List Segment) :
    mergeInto seg (h :: t) = ⟨h.level, seg.duration + h.duration⟩ :: t := if_pos heq

theorem mergeInto_cons_of_ne {seg h : Segment} (hne : seg.level ≠ h.level) (t : List Segment) :
    mergeInto seg (h :: t) = seg :: h :: t := if_neg hne

theorem waveform_mergeInto (seg : Segment) (l : List Segment) : waveform (mergeInto seg l) = waveform (seg :: l) := by
  cases l with
  | nil => rfl
  | cons h t =>
    by_cases heq : seg.level = h.level
    · rw [mergeInto_cons_of_eq heq]
      simp only [waveform_cons, heq, List.replicate_add, List.append_assoc]
    · rw [mergeInto_cons_of_ne heq]

theorem waveform_mergeAdjacent (segs : List Segment) : waveform (mergeAdjacent segs) = waveform segs := by
  induction segs with
  | nil => rfl
  | cons seg segs ih => rw [mergeAdjacent_cons, waveform_mergeInto, waveform_cons, waveform_cons, ih]

/-- The waveform has one entry a microsecond. -/
theorem length_waveform (segs : List Segment) : (waveform segs).length = totalUs segs := by
  induction segs with
  | nil => rfl
  | cons seg segs ih => rw [waveform_cons, List.length_append, List.length_replicate, ih, totalUs_cons]

/-- No two neighbours are at one level. -/
def Alternating (segs : List Segment) : Prop := segs.IsChain fun a b => a.level ≠ b.level

theorem Alternating.mergeInto {l : List Segment} (hl : Alternating l) (seg : Segment) :
    Alternating (mergeInto seg l) := by
  cases l with
  | nil => exact List.isChain_singleton seg
  | cons h t =>
    by_cases heq : seg.level = h.level
    · rw [mergeInto_cons_of_eq heq]
      exact List.isChain_cons.2 (List.isChain_cons.1 hl)
    · rw [mergeInto_cons_of_ne heq]
      exact List.isChain_cons_cons.2 ⟨heq, hl⟩

theorem alternating_mergeAdjacent (segs : List Segment) : Alternating (mergeAdjacent segs) := by
  induction segs with
  | nil => exact List.isChain_nil
  | cons seg segs ih => exact ih.mergeInto seg

theorem Alternating.getElem? {l : List Segment} (hl : Alternating l) {i : Nat} {a b : Segment} (ha : l[i]? = some a)
    (hb : l[i + 1]? = some b) : a.level ≠ b.level := by
  obtain ⟨_, rfl⟩ := List.getElem?_eq_some_iff.1 ha
  obtain ⟨hi, rfl⟩ := List.getElem?_eq_some_iff.1 hb
  exact hl.getElem i hi

theorem mergeInto_pos {seg : Segment} {l : List Segment} (h : ∀ x ∈ seg :: l, 0 < x.duration) :
    ∀ x ∈ mergeInto seg l, 0 < x.duration := by
  cases l with
  | nil => exact h
  | cons a t =>
    by_cases heq : seg.level = a.level
    · rw [mergeInto_cons_of_eq heq]
      obtain ⟨hseg, -, ht⟩ := by simpa only [List.forall_mem_cons] using h
      exact List.forall_mem_cons.2 ⟨Nat.add_pos_left hseg _, ht⟩
    · rw [mergeInto_cons_of_ne heq]
      exact h

theorem mergeAdjacent_pos {segs : List Segment} (h : ∀ seg ∈ segs, 0 < seg.duration) :
    ∀ seg ∈ mergeAdjacent segs, 0 < seg.duration := by
  induction segs with
  | nil => exact h
  | cons seg segs ih =>
    obtain ⟨hseg, hsegs⟩ := List.forall_mem_cons.1 h
    exact mergeInto_pos (List.forall_mem_cons.2 ⟨hseg, ih hsegs⟩)

/-- Settles O31: merging one segment keeps the waveform, and so the whole does; the time is the waveform's length. -/
theorem mergingKeepsTimeAndAlternates : Obligations.MergingKeepsTimeAndAlternates := by
  intro segs
  have hwave := waveform_mergeAdjacent segs
  refine ⟨hwave, ?_, fun i a b => (alternating_mergeAdjacent segs).getElem?, mergeAdjacent_pos⟩
  rw [← length_waveform, hwave, length_waveform]

end Sys2Proof.Machine
end

section
/-! SUPPORT. The transmitter family, the burst in time: sent in one move (R174), one segment of it a move (R176, R179,
R180), and that both ways end alike. -/

namespace Sys2Proof.Machine

/-! ## The burst in one move -/

/-- In RUN the phase test lets any seven bytes go out (R183, R235). -/
theorem prepareTransmit_of_run (g : Frame) {s : State} (hp : s.phase = .run) :
    prepareTransmit g s = .ok (g, .done) s := by
  have hadm : admits opTransmitBurst s.phase s.config.resetReq = true := by rw [hp]; rfl
  exact ifAdmitted_of hadm

/-- The end of work that reached its burst: the whole burst, then the return (R174, R180). -/
theorem finishBurst_ok (g : Frame) (v : Result) (m : State) :
    finishBurst (.ok (g, v) m)
      = { m with line := .low, tx := .idle, trace := m.trace ++ burst g, result := some v } := by
  rw [finishBurst, transmit_eq]
  rfl

/-- Settles O28: the phase test passes, and the burst is all that follows. -/
theorem transmitBurstSendsThreeTransmissions : Obligations.TransmitBurstSendsThreeTransmissions := by
  intro g s hp
  have hwork : burstWork (.transmitBurst g) s = some (.ok (g, .done) s) :=
    congrArg some (prepareTransmit_of_run g hp)
  rw [exec_of_burstWork hwork, finishBurst_ok]
  rfl

/-! ## One segment a move -/

/-- Where `TX` goes after segment j of transmission k, as one update: only the last segment of all returns (R176,
R180). -/
theorem advanceTx_eq {g : Frame} {k : Fin 3} {j : Nat} (hj : j < (segmentsAt g k).length) (s : State) :
    advanceTx g k j s = { s with
      tx := if j + 1 < (segmentsAt g k).length then .busy g k (j + 1)
            else if k = 0 then .busy g 1 0 else if k = 1 then .busy g 2 0 else .idle
      result := if k = 2 ∧ j + 1 = (segmentsAt g k).length then s.burstResult else s.result
      burstResult := if k = 2 ∧ j + 1 = (segmentsAt g k).length then none else s.burstResult } := by
  unfold advanceTx
  by_cases hnext : j + 1 < (segmentsAt g k).length
  · simp [hnext, hnext.ne]
  · have hlast : j + 1 = (segmentsAt g k).length := by omega
    obtain rfl | rfl | rfl : k = 0 ∨ k = 1 ∨ k = 2 := by omega
    · simp [hlast]
    · simp [hlast]
    · simp [hlast, endBurst]

/-- While a burst runs time passes with a tick, or without one and everything that waits goes on waiting (R179,
log 1). -/
theorem step_of_busy_passing {s : State} {g : Frame} {k : Fin 3} {j : Nat} {rest : List Event} (ht : s.tx = .busy g k j)
    (hi : s.inbox = .tick :: rest ∨ s.inbox = rest ∧ ∀ e es, rest = e :: es → e.waitsForBurst = true) :
    step s = segmentStep g k j { s with inbox := rest } := by
  rcases hi with hi | ⟨rfl, hw⟩
  · rw [step_of_busy ht, burstMove, hi]
  · exact step_of_busy_waiting ht hw

theorem segmentStep_of_getElem? {g : Frame} {k : Fin 3} {j : Nat} {seg : Segment} (h : (segmentsAt g k)[j]? = some seg)
    (s : State) : segmentStep g k j s = .next (advanceTx g k j (emit seg s)) := by
  rw [segmentStep, h]

/-- Settles O30: the move is the segment step, and the segment step is `emit` and `advanceTx`. -/
theorem runningBurstMakesEveryRequestWait : Obligations.RunningBurstMakesEveryRequestWait := by
  refine ⟨fun g k j rest s ht hj hi => ?_, fun rest s ht hi => step_of_idle_event ht hi⟩
  have hseg := List.getElem?_eq_getElem hj
  refine ⟨_, hseg, ?_⟩
  rw [step_of_busy_passing ht hi, segmentStep_of_getElem? hseg, advanceTx_eq hj]
  rfl

/-! ## The moves of a whole burst -/

theorem moves_succ {s t : State} (h : step s = .next t) (n : Nat) : moves (n + 1) s = moves n t := by
  rw [moves, h]

theorem moves_succ_eq_next {n : Nat} {s t : State} (h : moves (n + 1) s = .next t) :
    ∃ u, step s = .next u ∧ moves n u = .next t := by
  rw [moves] at h
  cases hs : step s with
  | next u => rw [hs] at h; exact ⟨u, rfl, h⟩
  | fault f => rw [hs] at h; cases h
  | refused r => rw [hs] at h; cases h

/-- Moves go one after the other. -/
theorem moves_add {n : Nat} {s t : State} (h : moves n s = .next t) (m : Nat) : moves (n + m) s = moves m t := by
  induction n generalizing s with
  | zero => cases h; rw [Nat.zero_add]
  | succ n ih =>
    obtain ⟨u, hstep, hrest⟩ := moves_succ_eq_next h
    rw [Nat.add_right_comm, moves_succ hstep, ih hrest]

/-- The state `TX = BUSY(g, k, j)` of a burst that began in `m`: all before that position has been emitted. -/
def inBurst (m : State) (g : Frame) (k : Fin 3) (j : Nat) : State :=
  { emitAll (emittedBefore g k j) m with tx := .busy g k j }

theorem inBurst_inbox (m : State) (g : Frame) (k : Fin 3) (j : Nat) : (inBurst m g k j).inbox = m.inbox := by
  simp only [inBurst, emitAll_eq]

/-- A segment emitted at a position is emitted before the next one, wherever that is. -/
theorem emit_inBurst {m : State} {g : Frame} {k k' : Fin 3} {j j' : Nat} {seg : Segment}
    (h : emittedBefore g k' j' = emittedBefore g k j ++ [seg]) :
    { emit seg (inBurst m g k j) with tx := .busy g k' j' } = inBurst m g k' j' := by
  rw [inBurst.eq_def m g k' j', h, emitAll_append]
  rfl

/-- After a whole burst the line is LOW and its result is returned (R180). -/
theorem endBurst_emit_inBurst {m : State} {g : Frame} {j : Nat} {seg : Segment}
    (h : burst g = emittedBefore g 2 j ++ [seg]) :
    endBurst (emit seg (inBurst m g 2 j))
      = { m with
          line := .low, tx := .idle, trace := m.trace ++ burst g, result := m.burstResult, burstResult := none } := by
  have hall : emit seg (inBurst m g 2 j) = { emitAll (burst g) m with tx := .busy g 2 j } := by
    rw [inBurst, h, emitAll_append]
    rfl
  rw [hall, emitAll_eq, getLast_burst]
  rfl

section
variable {m : State} (hw : ∀ e es, m.inbox = e :: es → e.waitsForBurst = true) (g : Frame)
include hw

theorem step_inBurst {k : Fin 3} {j : Nat} {seg : Segment} (h : (segmentsAt g k)[j]? = some seg) :
    step (inBurst m g k j) = .next (advanceTx g k j (emit seg (inBurst m g k j))) := by
  rw [step_of_busy_waiting rfl (by rw [inBurst_inbox]; exact hw), segmentStep_of_getElem? h]

/-- `n` moves inside one transmission. -/
theorem moves_inBurst (k : Fin 3) (n : Nat) (hn : n < (segmentsAt g k).length) :
    moves n (inBurst m g k 0) = .next (inBurst m g k n) := by
  induction n with
  | zero => rfl
  | succ n ih =>
    have hseg := List.getElem?_eq_getElem (show n < (segmentsAt g k).length by omega)
    have hstep := step_inBurst hw g hseg
    rw [advanceTx, if_pos hn, emit_inBurst (emittedBefore_succ hseg)] at hstep
    exact (moves_add (ih (by omega)) 1).trans (moves_succ hstep 0)

/-- The moves of a whole transmission of n segments: the last of them has been emitted, and `TX` goes where `advanceTx`
says. -/
theorem moves_transmission (k : Fin 3) {n : Nat} (hn : (segmentsAt g k).length = n + 1) :
    ∃ seg, emittedBefore g k (segmentsAt g k).length = emittedBefore g k n ++ [seg] ∧
      moves (n + 1) (inBurst m g k 0) = .next (advanceTx g k n (emit seg (inBurst m g k n))) := by
  have hseg := List.getElem?_eq_getElem (show n < (segmentsAt g k).length by omega)
  refine ⟨_, (congrArg (emittedBefore g k) hn).trans (emittedBefore_succ hseg), ?_⟩
  exact (moves_add (moves_inBurst hw g k n (by omega)) 1).trans (moves_succ (step_inBurst hw g hseg) 0)

theorem moves_to_next {k k' : Fin 3} {n : Nat} (hn : (segmentsAt g k).length = n + 1)
    (hgoes : ∀ s, advanceTx g k n s = { s with tx := .busy g k' 0 })
    (hnext : emittedBefore g k' 0 = emittedBefore g k (segmentsAt g k).length) :
    moves (n + 1) (inBurst m g k 0) = .next (inBurst m g k' 0) := by
  obtain ⟨seg, hlast, h⟩ := moves_transmission hw g k hn
  rw [hgoes] at h
  exact h.trans (congrArg Host.Outcome.next (emit_inBurst (hnext.trans hlast)))

theorem moves_first : moves 121 (inBurst m g 0 0) = .next (inBurst m g 1 0) :=
  have hn : (segmentsAt g 0).length = 120 + 1 := length_segmentsAt g 0
  moves_to_next hw g hn (fun _ => if_neg hn.symm.not_lt) (emittedBefore_one g)

theorem moves_second : moves 129 (inBurst m g 1 0) = .next (inBurst m g 2 0) :=
  have hn : (segmentsAt g 1).length = 128 + 1 := length_segmentsAt g 1
  moves_to_next hw g hn (fun _ => if_neg hn.symm.not_lt) (emittedBefore_two g)

theorem moves_third : moves 129 (inBurst m g 2 0)
    = .next { m with
        line := .low, tx := .idle, trace := m.trace ++ burst g, result := m.burstResult, burstResult := none } := by
  have hn : (segmentsAt g 2).length = 128 + 1 := length_segmentsAt g 2
  obtain ⟨seg, hlast, h⟩ := moves_transmission hw g 2 hn
  rw [advanceTx, if_neg hn.symm.not_lt] at h
  exact h.trans (congrArg Host.Outcome.next (endBurst_emit_inBurst ((burst_eq_emittedBefore g).trans hlast)))

theorem moves_burst : moves 379 (inBurst m g 0 0)
    = .next { m with
        line := .low, tx := .idle, trace := m.trace ++ burst g, result := m.burstResult, burstResult := none } :=
  calc moves 379 (inBurst m g 0 0)
    _ = moves 258 (inBurst m g 1 0) := moves_add (moves_first hw g) 258
    _ = moves 129 (inBurst m g 2 0) := moves_add (moves_second hw g) 129
    _ = _ := moves_third hw g

end

/-! ## Both readings of a request -/

/-- Work that reached its burst starts it at its first segment, with its result waiting (R176). -/
theorem startBurst_ok (g : Frame) (v : Result) (m : State) :
    startBurst (.ok (g, v) m) = inBurst { m with tx := .busy g 0 0, burstResult := some v } g 0 0 := rfl

/-- The moves of a burst left to the segment step end where the burst in one move ends. -/
theorem moves_startBurst {g : Frame} {v : Result} {m : State} (hb : m.burstResult = none)
    (hw : ∀ e es, m.inbox = e :: es → e.waitsForBurst = true) :
    moves 379 (startBurst (.ok (g, v) m)) = .next (finishBurst (.ok (g, v) m)) := by
  refine (moves_burst (m := { m with tx := .busy g 0 0, burstResult := some v }) hw g).trans ?_
  rw [finishBurst_ok, hb]

/-- Work that reaches no burst ends alike in both readings. -/
theorem execStepwise_eq_exec {i : Instr} {s : State} (h : ∀ r m, burstWork i s ≠ some (.ok r m)) :
    execStepwise i s = exec i s := by
  unfold execStepwise
  cases hb : burstWork i s with
  | none => rfl
  | some r =>
    cases r with
    | ok gv m => exact absurd hb (h gv m)
    | err e m => exact (exec_of_burstWork hb).symm

theorem serveWith_of_ok {body : Instr → State → Host.Outcome State Fault Refusal} {req : Request} {i : Instr}
    {s : State} (hd : decode req = .ok i) (hw : i.wellFormed s.codeWidth = true) : serveWith body req s = body i s := by
  simp only [serveWith, hd, hw, if_true]

/-- Two ways to run the instruction of a request serve the request alike where they agree on it. -/
theorem serveWith_congr {body body' : Instr → State → Host.Outcome State Fault Refusal} {req : Request} {s : State}
    (h : ∀ i, decode req = .ok i → body i s = body' i s) : serveWith body req s = serveWith body' req s := by
  unfold serveWith
  cases hd : decode req with
  | error why => rfl
  | ok i => simp only [h i hd]

section
variable {s : State} (ht : s.tx = .idle) {req : Request} (rest : List Event)
include ht

theorem step_operation : step { s with inbox := .operation req :: rest } = serve req { s with inbox := rest } :=
  step_of_idle_event (s := { s with inbox := .operation req :: rest }) ht rfl

theorem step_stepwise : step { s with inbox := .stepwise req :: rest } = serveStepwise req { s with inbox := rest } :=
  step_of_idle_event (s := { s with inbox := .stepwise req :: rest }) ht rfl

end

/-- Settles O29: the work before the first `Emit` is one move, the burst 379 more. -/
theorem segmentLevelBurstEqualsTheAtomicBurst : Obligations.SegmentLevelBurstEqualsTheAtomicBurst := by
  refine ⟨fun req i r rest s m hd hwf ht hb hwork hwait => ?_, fun req rest s ht hno => ?_⟩
  · obtain ⟨g, v⟩ := r
    have hkept : StoreOnly { s with inbox := rest } m := by
      cases burstWork_work hwork with
      | ready _ _ _ work _ _ _ => exact work.storeOnly
    have hwf' : i.wellFormed { s with inbox := rest }.codeWidth = true := hwf
    have hatomic : step { s with inbox := .operation req :: rest } = .next (finishBurst (.ok (g, v) m)) := by
      rw [step_operation ht rest, serve, serveWith_of_ok hd hwf', exec_of_burstWork hwork]
    have hfirst : step { s with inbox := .stepwise req :: rest } = .next (startBurst (.ok (g, v) m)) := by
      rw [step_stepwise ht rest, serveStepwise, serveWith_of_ok hd hwf', execStepwise, hwork]
    rw [hatomic, moves_succ hfirst 379]
    exact moves_startBurst (hkept.burstResult.trans hb) (by rw [hkept.inbox]; exact hwait)
  · rw [step_stepwise ht rest, step_operation ht rest]
    exact serveWith_congr fun i hd => execStepwise_eq_exec fun r m => hno i r m hd

end Sys2Proof.Machine
end

section
/-! SUPPORT. The transmitter family, what is on the line and what was sent (R181): the statements of an operation
commute with putting another `LINE` and `TRACE` in the state, and a burst adds the same segments to either. -/

namespace Sys2Proof.Machine

/-! ## Changes of the state that the store's statements do not see -/

/-- A statement's end with its state changed by `φ`. -/
def Res.mapState {α : Type} (φ : State → State) : Res α → Res α
  | .ok a s => .ok a (φ s)
  | .err e s => .err e (φ s)

/-- The change `φ` of the state leaves what the operations test, and the backend's primitives do not see it. -/
structure Unseen (φ : State → State) : Prop where
  codeWidth : ∀ s, (φ s).codeWidth = s.codeWidth
  config : ∀ s, (φ s).config = s.config
  phase : ∀ s, (φ s).phase = s.phase
  memRead : ∀ slot s, memRead slot (φ s) = (memRead slot s).mapState φ
  memWrite : ∀ slot v s, memWrite slot v (φ s) = (memWrite slot v s).mapState φ
  memCommit : ∀ slot s, memCommit slot (φ s) = (memCommit slot s).mapState φ

theorem Res.mapState_andThen {α β : Type} {φ : State → State} {r : Res α} {f : α → State → Res β}
    (hf : ∀ a m, f a (φ m) = (f a m).mapState φ) : (r.mapState φ).andThen f = (r.andThen f).mapState φ := by
  cases r with
  | ok a m => exact hf a m
  | err e m => rfl

namespace Unseen

variable {φ : State → State} (h : Unseen φ)
include h

theorem writeDurably (slot : Slot) (v : Nat) (s : State) :
    writeDurably slot v (φ s) = (writeDurably slot v s).mapState φ := by
  unfold Machine.writeDurably
  rw [h.memWrite]
  exact Res.mapState_andThen fun _ m => h.memCommit slot m

theorem resetEach (l : List (Slot × Nat)) (s : State) : resetEach l (φ s) = (resetEach l s).mapState φ := by
  induction l generalizing s with
  | nil => rfl
  | cons x l ih =>
    unfold Machine.resetEach
    rw [h.writeDurably]
    exact Res.mapState_andThen fun _ m => ih m

theorem takenCode (slot : Slot) (d : Nat) (cell : Cell) (s : State) :
    takenCode slot d cell (φ s) = (takenCode slot d cell s).mapState φ := by
  cases cell with
  | absent =>
    unfold Machine.takenCode
    rw [h.writeDurably]
    exact Res.mapState_andThen fun _ _ => rfl
  | value v => rfl

theorem advance (slot : Slot) (c : Nat) (s : State) : advance slot c (φ s) = (advance slot c s).mapState φ := by
  unfold Machine.advance
  rw [h.codeWidth, h.writeDurably]
  split
  · rfl
  · exact Res.mapState_andThen fun _ _ => rfl

theorem takeAndAdvance (slot : Slot) (d : Nat) (s : State) :
    takeAndAdvance slot d (φ s) = (takeAndAdvance slot d s).mapState φ := by
  unfold Machine.takeAndAdvance
  rw [h.memRead]
  refine Res.mapState_andThen fun cell m => ?_
  rw [h.takenCode]
  exact Res.mapState_andThen fun c m => h.advance slot c m

theorem ifAdmitted {α : Type} {op : Byte} {s : State} {body : State → Res α}
    (hb : body (φ s) = (body s).mapState φ) : ifAdmitted op (φ s) body = (ifAdmitted op s body).mapState φ := by
  unfold Machine.ifAdmitted
  rw [h.phase, h.config, hb]
  split <;> rfl

theorem prepareSend (r : Nat) (cmd : Command) (s : State) :
    prepareSend r cmd (φ s) = (prepareSend r cmd s).mapState φ := by
  refine h.ifAdmitted ?_
  rw [h.config]
  cases s.config.profiles[r]? with
  | none => rfl
  | some p =>
    show (Machine.takeAndAdvance _ _ (φ s)).andThen _ = _
    rw [h.takeAndAdvance]
    exact Res.mapState_andThen fun _ _ => rfl

theorem burstWork (i : Instr) (s : State) : burstWork i (φ s) = (burstWork i s).map (Res.mapState φ) := by
  cases i
  case transmitBurst g => exact congrArg some (h.ifAdmitted rfl)
  case sendCommand r cmd => exact congrArg some (h.prepareSend r cmd s)
  case sendU r => exact congrArg some (h.prepareSend r .up s)
  case sendS r => exact congrArg some (h.prepareSend r .stop s)
  case sendD r => exact congrArg some (h.prepareSend r .down s)
  case sendP r => exact congrArg some (h.prepareSend r .prog s)
  all_goals rfl

end Unseen

/-! ## Another line and another trace -/

/-- The state with another level on the line and another trace. -/
def State.onLine (l : Level) (tr : List Segment) (s : State) : State := { s with line := l, trace := tr }

section
variable (l : Level) (tr : List Segment)

theorem onLine_unseen : Unseen (State.onLine l tr) where
  codeWidth _ := rfl
  config _ := rfl
  phase _ := rfl
  memRead slot s := by
    unfold memRead
    rw [apply_ite (Res.mapState _)]; rfl
  memWrite slot v s := by
    unfold memWrite
    rw [apply_ite (Res.mapState _)]; rfl
  memCommit slot s := by
    unfold memCommit
    rw [apply_ite (Res.mapState _)]; rfl

theorem finish_onLine (r : Res Result) : (r.mapState (State.onLine l tr)).finish = r.finish.onLine l tr := by
  cases r <;> rfl

theorem finishReset_onLine (r : Res Unit) :
    finishReset (r.mapState (State.onLine l tr)) = (finishReset r).onLine l tr := by
  cases r <;> rfl

variable {s : State}

theorem complete_onLine (op : Byte) {body : State → Res Result}
    (hb : body (s.onLine l tr) = (body s).mapState (State.onLine l tr)) :
    complete (ifAdmitted op (s.onLine l tr) body) = .next ((ifAdmitted op s body).finish.onLine l tr) := by
  rw [complete, (onLine_unseen l tr).ifAdmitted hb, finish_onLine]

theorem execResetAll_onLine {ds : List (Slot × Nat)} {t : State} (hx : execResetAll ds s = .next t) :
    execResetAll ds (s.onLine l tr) = .next (t.onLine l tr) := by
  cases hx
  unfold execResetAll
  rw [(onLine_unseen l tr).resetEach, finishReset_onLine, apply_ite (State.onLine l tr)]
  rfl

/-- An operation without a burst takes the line and the trace with it as they are. -/
theorem exec_onLine_of_no_burst {i : Instr} {t : State} (hb : burstWork i s = none) (hx : exec i s = .next t) :
    exec i (s.onLine l tr) = .next (t.onLine l tr) := by
  have h := onLine_unseen l tr
  cases i <;> try contradiction
  case currentCode slot =>
    cases hx
    refine complete_onLine l tr _ ?_
    rw [h.memRead]
    exact Res.mapState_andThen fun _ _ => rfl
  case takeAndAdvance slot d =>
    cases hx
    refine complete_onLine l tr _ ?_
    rw [h.takeAndAdvance]
    exact Res.mapState_andThen fun _ _ => rfl
  case resetAll ds => exact execResetAll_onLine l tr hx
  all_goals cases hx; rfl

/-- An operation with a burst, on another line: the same work, then the same burst or the same error. -/
theorem exec_onLine_of_burst {i : Instr} {r : Res (Frame × Result)} (hb : burstWork i s = some r) :
    exec i (s.onLine l tr) = .next (finishBurst (r.mapState (State.onLine l tr))) := by
  refine exec_of_burstWork ?_
  rw [(onLine_unseen l tr).burstWork, hb]
  rfl

/-- An operation without a burst appends nothing: put back on its own line, its state is what it was. -/
theorem exec_trace_of_no_burst {i : Instr} {t : State} (hb : burstWork i s = none) (hx : exec i s = .next t) :
    t.trace = s.trace := by
  have hself : exec i s = .next (t.onLine s.line s.trace) := exec_onLine_of_no_burst s.line s.trace hb hx
  have ht : t = t.onLine s.line s.trace := Host.Outcome.next.inj (hx.symm.trans hself)
  rw [ht, State.onLine]

end

/-- Settles O45: without a burst the operation emits nothing, and with one it emits the burst its work asks for, on
either line. -/
theorem noResultDependsOnLineOrTrace : Obligations.NoResultDependsOnLineOrTrace := by
  intro i s t l tr hx
  cases hb : burstWork i s with
  | none =>
    have htrace := exec_trace_of_no_burst hb hx
    exact ⟨_, [], exec_onLine_of_no_burst l tr hb hx, by rw [htrace, List.append_nil], (List.append_nil tr).symm, rfl⟩
  | some r =>
    have hother := exec_onLine_of_burst l tr hb
    rw [exec_of_burstWork hb] at hx
    cases hx
    cases burstWork_work hb with
    | ready g v m work _ _ _ =>
      refine ⟨_, burst g, hother, ?_, ?_, ?_⟩ <;> simp only [Res.mapState, finishBurst_ok]
      · rw [work.storeOnly.trace]
      · rfl
      · rfl
    | failed e m work _ =>
      exact ⟨_, [], hother, work.storeOnly.trace.trans (List.append_nil _).symm, (List.append_nil tr).symm, rfl⟩

end Sys2Proof.Machine
end

section
/-! SUPPORT. The command path family: `SEND_COMMAND` and the payload letters on a known and on an unknown remote (R200 to
R206), and what a payload is read as (R91, R205). -/

namespace Sys2Proof.Machine

variable {r : Nat} {s : State}

/-! ## `SEND_COMMAND` in RUN -/

section run
variable (cmd : Command) (hrun : s.phase = .run)
include hrun

/-- Without a profile of index r there is nothing to take (R206). -/
theorem prepareSend_of_unknown (hr : s.config.profiles[r]? = none) :
    prepareSend r cmd s = .err (.malformedCommand (.remote r)) s := by
  rcases prepareSend_cases r cmd s with ⟨hne, _⟩ | ⟨_, _, h⟩ | ⟨p, _, hp, _⟩
  · exact absurd hrun hne
  · exact h
  · cases hp.symm.trans hr

variable {p : Profile} (hp : s.config.profiles[r]? = some p)
include hp

theorem prepareSend_of_known : prepareSend r cmd s = prepareFor p cmd s := by
  rcases prepareSend_cases r cmd s with ⟨hne, _⟩ | ⟨_, hnone, _⟩ | ⟨q, _, hq, h⟩
  · exact absurd hrun hne
  · cases hnone.symm.trans hp
  · cases hq.symm.trans hp
    exact h

/-- A take that fails is all that the command does before it raises (R202). -/
theorem prepareSend_of_take_err {e : ErrorRecord} {m : State} (h : takeAndAdvance p.slot p.defaultCode s = .err e m) :
    prepareSend r cmd s = .err e m := by
  rw [prepareSend_of_known cmd hrun hp, prepareFor, h, andThen_err]

/-- A successful take is followed by the burst of its code's frame and the return of the code (R200). -/
theorem finishBurst_of_take_ok {c n : Nat} {m : Memory} (hs : s.staged = [])
    (h : takeAndAdvance p.slot p.defaultCode s = .ok c ((s.afterDraws n).commitTo m)) :
    finishBurst (prepareSend r cmd s) = { s.afterDraws n with
      store := m, line := .low, tx := .idle,
      trace := s.trace ++ burst (buildFrame (BitVec.ofNat 24 p.id) cmd (frameCode c)),
      result := some (.code c) } := by
  rw [prepareSend_of_known cmd hrun hp, prepareFor, h, andThen_ok, finishBurst_ok]
  simp [State.commitTo, hs]

end run

/-- Each sending form is `SEND_COMMAND` of some command (R205). -/
theorem exec_of_sending_form {i : Instr} {cmd : Command} (s : State)
    (h : i ∈ [Instr.sendCommand r cmd, Instr.sendU r, Instr.sendS r, Instr.sendD r, Instr.sendP r]) :
    ∃ c, exec i s = .next (finishBurst (prepareSend r c s)) := by
  simp only [List.mem_cons, List.not_mem_nil, or_false] at h
  rcases h with rfl | rfl | rfl | rfl | rfl <;> exact ⟨_, rfl⟩

/-! ## Payloads -/

theorem eq_payloadLetter_of_commandOfLetter {b : Byte} {cmd : Command} (h : commandOfLetter b = some cmd) :
    b = payloadLetter cmd := by
  unfold commandOfLetter at h
  split_ifs at h with hu hs hd hp <;> cases h
  · exact hu
  · exact hs
  · exact hd
  · exact hp

/-- Only a single letter is decoded (R91). -/
theorem eq_payloadLetter_of_decode_ok {bytes : List Byte} {i : Instr} (h : decode (.payload r bytes) = .ok i) :
    ∃ cmd, bytes = [payloadLetter cmd] := by
  simp only [decode, decodePayload] at h
  split at h
  next b =>
    split at h
    next cmd hcmd => exact ⟨cmd, congrArg (fun b => [b]) (eq_payloadLetter_of_commandOfLetter hcmd)⟩
    next => cases h
  next => cases h

theorem decode_payload_malformed {bytes : List Byte} (h : ∀ cmd, bytes ≠ [payloadLetter cmd]) :
    decode (.payload r bytes) = .error (.malformedPayload bytes) := by
  rcases decode_payload_cases r bytes with ⟨_, hok⟩ | herr
  · obtain ⟨cmd, hletter⟩ := eq_payloadLetter_of_decode_ok hok
    exact absurd hletter (h cmd)
  · exact herr

/-- A letter of command `cmd` runs as `SEND_COMMAND(r, cmd)` (R205). -/
theorem exec_sendInstr (cmd : Command) (r : Nat) (s : State) :
    exec (sendInstr cmd r) s = exec (.sendCommand r cmd) s := by
  cases cmd <;> rfl

theorem serve_payloadLetter (cmd : Command) (r : Nat) (s : State) :
    serve (.payload r [payloadLetter cmd]) s = exec (.sendCommand r cmd) s := by
  rw [serve, serveWith_of_ok (decode_payloadLetter cmd r) (sendInstr_wellFormed s.codeWidth cmd r), exec_sendInstr]

theorem serve_payload_malformed {bytes : List Byte} (s : State) (h : ∀ cmd, bytes ≠ [payloadLetter cmd]) :
    serve (.payload r bytes) s = .next (s.raise (.malformedCommand (.payload bytes))) :=
  serveWith_of_error s (decode_payload_malformed h)

/-- The payload letters' bytes, written out (G1, log 10). -/
theorem payloadLetter_mem (cmd : Command) : [payloadLetter cmd] ∈ [[0x75#8], [0x73#8], [0x64#8], [0x70#8]] := by
  cases cmd <;> decide

/-! ## The obligations -/

/-- Settles O34: the take of the held code, then the burst. -/
theorem sendTakesTheHeldCodeBuildsAndSends : Obligations.SendTakesTheHeldCodeBuildsAndSends := by
  intro r v cmd i p s hi hrun hp hs hcalls hread hv
  have htake := takeAndAdvance_held p.defaultCode hread hs hv hcalls
  rw [exec_of_burstWork (burstWork_of_sends s hi), finishBurst_of_take_ok cmd hrun hp hs htake]
  rfl

/-- Settles O35: the take of the default, then the burst. -/
theorem sendOnAnAbsentSlotUsesTheDefault : Obligations.SendOnAnAbsentSlotUsesTheDefault := by
  intro r cmd i p s hi hrun hp hs hcalls hread hd
  have htake := takeAndAdvance_fresh hread hs hd hcalls
  rw [exec_of_burstWork (burstWork_of_sends s hi), finishBurst_of_take_ok cmd hrun hp hs htake]
  rfl

/-- Settles O36: of the ends of `TAKE_AND_ADVANCE` only the failed take returns an error in RUN, and the command ends
with it too. -/
theorem sendAbortsAsTakeDoes : Obligations.SendAbortsAsTakeDoes := by
  intro r cmd i p e s t hi hrun hp hx hresult
  obtain ⟨c, hexec⟩ := exec_of_sending_form s hi
  rcases exec_takeAndAdvance_cases p.slot p.defaultCode s with ⟨hne, _⟩ | ⟨_, m, _, _, hend⟩ |
    ⟨e', m, _, htake, hend⟩
  · exact absurd hrun hne
  · cases hend.symm.trans hx
    cases hresult
  · cases hend.symm.trans hx
    cases hresult
    have hkept : StoreOnly s m := by simpa [htake] using takeAndAdvance_storeOnly p.slot p.defaultCode s
    refine ⟨?_, ?_, hkept.line, hkept.tx, hkept.trace⟩
    · rw [hexec, prepareSend_of_take_err c hrun hp htake, finishBurst]
    · rw [raise_errlog, hkept.errlog]

/-- Settles O39: a payload is decoded before any check of `SEND_COMMAND`, to its command or to the error. -/
theorem payloadDecoding : Obligations.PayloadDecoding := by
  intro r bytes s rest ht hs hi
  have hstep : step s = serve (.payload r bytes) { s with inbox := rest } := step_of_idle_event ht hi
  refine ⟨fun cmd hcmd => ?_, fun hbytes => ?_⟩
  · obtain rfl : bytes = [payloadLetter cmd] := by
      simp only [List.mem_cons, Prod.mk.injEq, List.not_mem_nil, or_false] at hcmd
      rcases hcmd with ⟨rfl, rfl⟩ | ⟨rfl, rfl⟩ | ⟨rfl, rfl⟩ | ⟨rfl, rfl⟩ <;> rfl
    rw [hstep, serve_payloadLetter]
  · have hno : ∀ cmd, bytes ≠ [payloadLetter cmd] := fun cmd hletter => hbytes (hletter ▸ payloadLetter_mem cmd)
    rw [hstep, serve_payload_malformed _ hno, raise_eq { s with inbox := rest } _ hs]

/-- Settles O38: an index past the last profile names none, and the raise is all that happens. -/
theorem unknownRemoteIsMalformed : Obligations.UnknownRemoteIsMalformed := by
  intro r cmd i s hi hrun hr hs
  obtain ⟨c, hexec⟩ := exec_of_sending_form s hi
  rw [hexec, prepareSend_of_unknown c hrun (List.getElem?_eq_none hr), finishBurst, raise_eq s _ hs]

end Sys2Proof.Machine
end

section
/-! SUPPORT. The exceptions family, the phase test (R227, R234, R235): each operation that has one either passes it and
raises no `PhaseError` afterwards, or raises its own and does nothing else. -/

namespace Sys2Proof.Machine

/-! ## The admission table, row by row -/

@[simp] theorem admits_opBuildFrame (ph : Phase) (req : Bool) : admits opBuildFrame ph req = true := rfl
@[simp] theorem admits_opCurrentCode (ph : Phase) (req : Bool) : admits opCurrentCode ph req = true := rfl
@[simp] theorem admits_opTakeAndAdvance (ph : Phase) (req : Bool) :
    admits opTakeAndAdvance ph req = decide (ph = .run) := rfl
@[simp] theorem admits_opResetAll (ph : Phase) (req : Bool) :
    admits opResetAll ph req = (decide (ph = .startup) && req) := rfl
@[simp] theorem admits_opTransmitBurst (ph : Phase) (req : Bool) :
    admits opTransmitBurst ph req = decide (ph = .run) := rfl
@[simp] theorem admits_opSendCommand (ph : Phase) (req : Bool) :
    admits opSendCommand ph req = decide (ph = .run) := rfl

/-- The selector under which an operation's phase is tested: the command rows are `BUILD_FRAME`, the payload letters
`SEND_COMMAND`, and a reserved selector is answered without a phase test (R228, R235). -/
def testedSelector : Instr → Option Byte
  | .buildFrame _ _ _ => some opBuildFrame
  | .currentCode _ => some opCurrentCode
  | .takeAndAdvance _ _ => some opTakeAndAdvance
  | .resetAll _ => some opResetAll
  | .transmitBurst _ => some opTransmitBurst
  | .sendCommand _ _ => some opSendCommand
  | .reservedSelector _ => none
  | .up _ _ => some opBuildFrame
  | .stop _ _ => some opBuildFrame
  | .down _ _ => some opBuildFrame
  | .prog _ _ => some opBuildFrame
  | .sendU _ => some opSendCommand
  | .sendS _ => some opSendCommand
  | .sendD _ => some opSendCommand
  | .sendP _ => some opSendCommand

/-! ## Past the phase test no `PhaseError` is raised -/

/-- An error that is no `PhaseError`, as every one raised after the phase test is. -/
def ErrorRecord.IsPastPhaseTest (e : ErrorRecord) : Prop := ∀ op ph, e ≠ .phaseError op ph

/-- Statements that raise only errors of the store primitives are past the phase test. -/
theorem Res.Ends.pastPhaseTest {α : Type} {V : α → Prop} {r : Res α} (h : r.Ends V ErrorRecord.IsStorage) :
    r.Ends V ErrorRecord.IsPastPhaseTest := by
  cases r with
  | ok a m => exact h
  | err e m =>
    obtain ⟨stage, slot, rfl⟩ := h
    exact nofun

theorem takenCode_pastPhaseTest (slot : Slot) (d : Nat) (cell : Cell) (s : State) :
    (takenCode slot d cell s).Ends (fun _ => True) ErrorRecord.IsPastPhaseTest := by
  cases cell with
  | absent => exact (writeDurably_ends slot d s).pastPhaseTest.andThen fun _ _ _ => trivial
  | value v => trivial

theorem advance_pastPhaseTest (slot : Slot) (c : Nat) (s : State) :
    (advance slot c s).Ends (fun _ => True) ErrorRecord.IsPastPhaseTest := by
  unfold advance
  split
  · exact nofun
  · exact (writeDurably_ends slot (c + 1) s).pastPhaseTest.andThen fun _ _ _ => trivial

theorem takeAndAdvance_pastPhaseTest (slot : Slot) (d : Nat) (s : State) :
    (takeAndAdvance slot d s).Ends (fun _ => True) ErrorRecord.IsPastPhaseTest :=
  (memRead_ends slot s).pastPhaseTest.andThen fun cell m _ =>
    (takenCode_pastPhaseTest slot d cell m).andThen fun c m _ => advance_pastPhaseTest slot c m

theorem prepareFor_pastPhaseTest (p : Profile) (cmd : Command) (s : State) :
    (prepareFor p cmd s).Ends (fun gv => gv.2.IsOk) ErrorRecord.IsPastPhaseTest :=
  (takeAndAdvance_pastPhaseTest p.slot p.defaultCode s).andThen fun _ _ _ => nofun

/-! ## The phase test decides -/

/-- The operation returned no `PhaseError`. -/
def NoPhaseError (t : State) : Prop := ∀ op ph, t.result ≠ some (.error (.phaseError op ph))

theorem raise_noPhaseError {e : ErrorRecord} (h : e.IsPastPhaseTest) (s : State) : NoPhaseError (s.raise e) := by
  intro op ph hr
  cases hr
  exact h op ph rfl

theorem returns_noPhaseError {v : Result} (h : v.IsOk) (s : State) : NoPhaseError (s.returns v) := by
  intro op ph hr
  cases hr
  exact h _ rfl

theorem finish_noPhaseError {r : Res Result} (h : r.Ends Result.IsOk ErrorRecord.IsPastPhaseTest) :
    NoPhaseError r.finish := by
  cases r with
  | ok v m => exact returns_noPhaseError h m
  | err e m => exact raise_noPhaseError h m

theorem finishBurst_noPhaseError {r : Res (Frame × Result)}
    (h : r.Ends (fun gv => gv.2.IsOk) ErrorRecord.IsPastPhaseTest) : NoPhaseError (finishBurst r) := by
  cases r with
  | ok gv m => exact returns_noPhaseError h _
  | err e m => exact raise_noPhaseError h m

theorem finishReset_noPhaseError {r : Res Unit} (h : r.Ends (fun _ => True) ErrorRecord.IsPastPhaseTest) :
    NoPhaseError (finishReset r) := by
  cases r with
  | ok v m => exact returns_noPhaseError (v := .done) nofun m
  | err e m => exact raise_noPhaseError h m

/-- Everything an operation with selector `op` can do about its phase (R234): admitted it returns no `PhaseError`;
otherwise raising its own is all it does. -/
inductive PhaseTested (op : Byte) (s : State) : Host.Outcome State Fault Refusal → Prop
  | admitted (t : State) (passes : admits op s.phase s.config.resetReq = true) (past : NoPhaseError t) :
      PhaseTested op s (.next t)
  | turnedAway (fails : admits op s.phase s.config.resetReq = false) :
      PhaseTested op s (.next (s.raise (.phaseError op s.phase)))

theorem complete_phaseTested {op : Byte} {s : State} {body : State → Res Result}
    (h : (body s).Ends Result.IsOk ErrorRecord.IsPastPhaseTest) :
    PhaseTested op s (complete (ifAdmitted op s body)) := by
  unfold ifAdmitted
  split
  next hadm => exact .admitted _ hadm (finish_noPhaseError h)
  next hadm => exact .turnedAway (Bool.eq_false_of_not_eq_true hadm)

theorem execBuildFrame_phaseTested (rid : RemoteId) (cmd : Command) (code : CodeField) (s : State) :
    PhaseTested opBuildFrame s (execBuildFrame rid cmd code s) :=
  complete_phaseTested nofun

theorem execCurrentCode_phaseTested (slot : Slot) (s : State) :
    PhaseTested opCurrentCode s (execCurrentCode slot s) :=
  complete_phaseTested ((memRead_ends slot s).pastPhaseTest.andThen fun _ _ _ => nofun)

theorem execTakeAndAdvance_phaseTested (slot : Slot) (d : Nat) (s : State) :
    PhaseTested opTakeAndAdvance s (execTakeAndAdvance slot d s) :=
  complete_phaseTested ((takeAndAdvance_pastPhaseTest slot d s).andThen fun _ _ _ => nofun)

theorem execResetAll_phaseTested (l : List (Slot × Nat)) (s : State) :
    PhaseTested opResetAll s (execResetAll l s) := by
  unfold execResetAll
  split
  next hadm => exact .admitted _ hadm (finishReset_noPhaseError (resetEach_ends l s).pastPhaseTest)
  next hadm => exact .turnedAway (Bool.eq_false_of_not_eq_true hadm)

theorem execTransmitBurst_phaseTested (g : Frame) (s : State) :
    PhaseTested opTransmitBurst s (execTransmitBurst g s) := by
  unfold execTransmitBurst prepareTransmit ifAdmitted
  split
  next hadm => exact .admitted _ hadm (returns_noPhaseError (v := .done) nofun _)
  next hadm => exact .turnedAway (Bool.eq_false_of_not_eq_true hadm)

theorem execSendCommand_phaseTested (r : Nat) (cmd : Command) (s : State) :
    PhaseTested opSendCommand s (execSendCommand r cmd s) := by
  unfold execSendCommand
  rcases prepareSend_cases r cmd s with ⟨hp, h⟩ | ⟨hp, _, h⟩ | ⟨p, hp, _, h⟩ <;> rw [h]
  · exact .turnedAway (by simp [hp])
  · exact .admitted _ (by simp [hp]) (raise_noPhaseError (e := .malformedCommand (.remote r)) nofun s)
  · exact .admitted _ (by simp [hp]) (finishBurst_noPhaseError (prepareFor_pastPhaseTest p cmd s))

theorem exec_phaseTested {i : Instr} {op : Byte} (h : testedSelector i = some op) (s : State) :
    PhaseTested op s (exec i s) := by
  cases i <;> cases h
  case buildFrame rid cmd code => exact execBuildFrame_phaseTested rid cmd code s
  case currentCode slot => exact execCurrentCode_phaseTested slot s
  case takeAndAdvance slot d => exact execTakeAndAdvance_phaseTested slot d s
  case resetAll l => exact execResetAll_phaseTested l s
  case transmitBurst g => exact execTransmitBurst_phaseTested g s
  case sendCommand r cmd => exact execSendCommand_phaseTested r cmd s
  case up rid code => exact execBuildFrame_phaseTested rid .up code s
  case stop rid code => exact execBuildFrame_phaseTested rid .stop code s
  case down rid code => exact execBuildFrame_phaseTested rid .down code s
  case prog rid code => exact execBuildFrame_phaseTested rid .prog code s
  case sendU r => exact execSendCommand_phaseTested r .up s
  case sendS r => exact execSendCommand_phaseTested r .stop s
  case sendD r => exact execSendCommand_phaseTested r .down s
  case sendP r => exact execSendCommand_phaseTested r .prog s

theorem exec_of_not_admitted {i : Instr} {op : Byte} {s : State} (h : testedSelector i = some op)
    (hadm : admits op s.phase s.config.resetReq = false) :
    exec i s = .next (s.raise (.phaseError op s.phase)) := by
  have htested := exec_phaseTested h s
  generalize exec i s = o at htested
  cases htested with
  | admitted t passes _ => cases passes.symm.trans hadm
  | turnedAway _ => rfl

/-- A `PhaseError` that is returned is the operation's own, from a phase it is not admitted in (R227). -/
theorem exec_returns_phaseError {i : Instr} {s t : State} {op : Byte} {ph : Phase} (hx : exec i s = .next t)
    (hr : t.result = some (.error (.phaseError op ph))) :
    testedSelector i = some op ∧ ph = s.phase ∧ admits op s.phase s.config.resetReq = false := by
  cases hsel : testedSelector i with
  | none =>
    obtain ⟨sel, rfl⟩ : ∃ sel, i = .reservedSelector sel := by cases i <;> cases hsel; exact ⟨_, rfl⟩
    cases hx; cases hr
  | some op' =>
    have htested := exec_phaseTested hsel s
    rw [hx] at htested
    cases htested with
    | admitted _ _ past => exact absurd hr (past op ph)
    | turnedAway hadm => cases hr; exact ⟨rfl, rfl, hadm⟩

/-! ## The obligations -/

/-- Settles O41: the table's row of the operation's own selector says where it is not admitted. -/
theorem admittedOperationsRaiseNoPhaseError : Obligations.AdmittedOperationsRaiseNoPhaseError := by
  intro i s t op ph hx hr
  obtain ⟨hsel, hph, hadm⟩ := exec_returns_phaseError hx hr
  refine ⟨hph, ?_⟩
  cases i <;> cases hsel
  case buildFrame | currentCode | up | stop | down | prog => simp at hadm
  all_goals exact ⟨rfl, by simpa using hadm⟩

/-- Settles O40: by the table's rows of the listed forms none is admitted there, and the raise is all that happens. -/
theorem unadmittedOperationsRaisePhaseError : Obligations.UnadmittedOperationsRaisePhaseError := by
  intro slot d r g cmd l i op s hs hform
  obtain ⟨hsel, hadm⟩ : testedSelector i = some op ∧ admits op s.phase s.config.resetReq = false := by
    rcases hform with ⟨hi, hp⟩ | ⟨hi, hp⟩
    · have hrun : decide (s.phase = .run) = false := decide_eq_false hp
      simp only [List.mem_cons, Prod.mk.injEq, List.not_mem_nil, or_false] at hi
      rcases hi with ⟨rfl, rfl⟩ | ⟨rfl, rfl⟩ | ⟨rfl, rfl⟩ | ⟨rfl, rfl⟩ | ⟨rfl, rfl⟩ | ⟨rfl, rfl⟩ | ⟨rfl, rfl⟩ <;>
        exact ⟨rfl, hrun⟩
    · cases hi
      exact ⟨rfl, (admits_opResetAll _ _).trans (by simpa using hp)⟩
  rw [exec_of_not_admitted hsel hadm, raise_eq s _ hs]

end Sys2Proof.Machine
end

section
/-! SUPPORT. The exceptions family, HALTED (R222, R236): only the codec and the read are admitted in it, the boot sequence
has run, and so no move but a restart leaves it. -/

namespace Sys2Proof.Machine

variable {s t u : State}

/-! ## Effects in sequence -/

theorem Memory.writeAll_append (m : Memory) (ws ws' : List (Slot × Nat)) :
    m.writeAll (ws ++ ws') = (m.writeAll ws).writeAll ws' := List.foldl_append

theorem StoreEffect.trans {slots : List Slot} (h : StoreEffect slots s t) (h' : StoreEffect slots t u) :
    StoreEffect slots s u := by
  obtain ⟨ws, hws, hstore⟩ := h.writes
  obtain ⟨ws', hws', hstore'⟩ := h'.writes
  refine ⟨h'.nothingStaged, ⟨ws ++ ws', ?_, ?_⟩, h'.trace.trans h.trace, h'.line.trans h.line, h'.tx.trans h.tx⟩
  · rw [List.map_append]; exact List.append_subset.2 ⟨hws, hws'⟩
  · rw [hstore', hstore, Memory.writeAll_append]

/-- `t` is a halted block that since `s` wrote no cell, emitted nothing, and saw no event but those that waited. -/
structure StaysHalted (s t : State) : Prop where
  phase : t.phase = .halted
  effect : StoreEffect [] s t
  inbox : t.inbox ⊆ s.inbox

theorem StaysHalted.trans (h : StaysHalted s t) (h' : StaysHalted t u) : StaysHalted s u :=
  ⟨h'.phase, h.effect.trans h'.effect, List.Subset.trans h'.inbox h.inbox⟩

section halted
variable (hp : s.phase = .halted) (hs : s.staged = [])
include hp hs

theorem StaysHalted.refl : StaysHalted s s := ⟨hp, .refl hs, List.Subset.refl _⟩

theorem StaysHalted.raise (e : ErrorRecord) : StaysHalted s (s.raise e) :=
  ⟨hp, (StoreEffect.refl hs).raise e, List.Subset.refl _⟩

/-- The next event leaves the inbox. -/
theorem StaysHalted.takes {e : Event} {rest : List Event} (hi : s.inbox = e :: rest) :
    StaysHalted s { s with inbox := rest } :=
  ⟨hp, ⟨hs, ⟨[], List.nil_subset _, rfl⟩, rfl, rfl, rfl⟩, by rw [hi]; exact List.subset_cons_self e rest⟩

/-! ## Moves of a halted block -/

/-- In HALTED the operations of the store and the transmitter are turned away, and the others write nothing (R235). -/
theorem exec_effect_of_halted {i : Instr} (hx : exec i s = .next t) : StoreEffect [] s t := by
  have turned : ∀ {op}, testedSelector i = some op → admits op s.phase s.config.resetReq = false →
      StoreEffect [] s t := fun hsel hadm => by
    cases (exec_of_not_admitted hsel hadm).symm.trans hx
    exact (StoreEffect.refl hs).raise _
  cases i
  case buildFrame rid cmd code => exact execBuildFrame_effect hs hx
  case currentCode slot => exact execCurrentCode_effect hs hx
  case reservedSelector op => cases hx; exact (StoreEffect.refl hs).raise _
  case up rid code => exact execBuildFrame_effect hs hx
  case stop rid code => exact execBuildFrame_effect hs hx
  case down rid code => exact execBuildFrame_effect hs hx
  case prog rid code => exact execBuildFrame_effect hs hx
  all_goals exact turned rfl (by simp [hp])

theorem exec_staysHalted {i : Instr} (hx : exec i s = .next t) : StaysHalted s t := by
  obtain ⟨-, -, hinbox, -, hphase⟩ := operationsNeverWriteConfigAndRarelyPhase i s t hx
  refine ⟨?_, exec_effect_of_halted hp hs hx, hinbox ▸ List.Subset.refl _⟩
  rcases hphase with hsame | ⟨hstart, _⟩
  · exact hsame.trans hp
  · cases hp.symm.trans hstart

/-- Outside RUN no burst starts, so both readings of an operation are one (R176, R235). -/
theorem execStepwise_staysHalted {i : Instr} (hx : execStepwise i s = .next t) : StaysHalted s t := by
  rw [execStepwise_eq_exec] at hx
  · exact exec_staysHalted hp hs hx
  · intro gv m hb
    cases burstWork_work hb with
    | ready g v m _ run _ _ => cases hp.symm.trans run

theorem serveWith_staysHalted {body : Instr → State → Host.Outcome State Fault Refusal} {req : Request}
    (hbody : ∀ {i}, body i s = .next t → StaysHalted s t) (hx : serveWith body req s = .next t) : StaysHalted s t := by
  rcases serveWith_next hx with ⟨i, _, hi⟩ | ⟨bytes, rfl⟩
  · exact hbody hi
  · exact .raise hp hs _

/-- In HALTED the boot sequence has run already (R251). -/
theorem boot_staysHalted : StaysHalted s (boot s) := by
  have hboot : boot s = s := if_neg (by rw [hp]; nofun)
  rw [hboot]; exact .refl hp hs

theorem handleEvent_staysHalted {e : Event} (he : e.isRestart = false) (hx : handleEvent e s = .next t) :
    StaysHalted s t := by
  cases e with
  | operation req => exact serveWith_staysHalted hp hs (exec_staysHalted hp hs) hx
  | stepwise req => exact serveWith_staysHalted hp hs (execStepwise_staysHalted hp hs) hx
  | tick => cases hx; exact .refl hp hs
  | boot => cases hx; exact boot_staysHalted hp hs
  | restart cfg => cases he
  | restartInOperation req n cfg => cases he
  | restartInBoot n cfg => cases he

theorem step_staysHalted (ht : s.tx = .idle) (hi : ∀ e ∈ s.inbox, e.isRestart = false) (hx : step s = .next t) :
    StaysHalted s t := by
  cases hin : s.inbox with
  | nil =>
    cases (step_of_idle_empty ht hin).symm.trans hx
    exact boot_staysHalted hp hs
  | cons e rest =>
    rw [step_of_idle_event ht hin] at hx
    have he : e.isRestart = false := hi e (by simp [hin])
    exact (StaysHalted.takes hp hs hin).trans (handleEvent_staysHalted hp hs he hx)

theorem moves_staysHalted (n : Nat) (ht : s.tx = .idle) (hi : ∀ e ∈ s.inbox, e.isRestart = false)
    (hx : moves n s = .next t) : StaysHalted s t := by
  induction n generalizing s with
  | zero => cases hx; exact .refl hp hs
  | succ n ih =>
    obtain ⟨m, hstep, hrest⟩ := moves_succ_eq_next hx
    have hfirst := step_staysHalted hp hs ht hi hstep
    exact hfirst.trans (ih hfirst.phase hfirst.effect.nothingStaged (hfirst.effect.tx.trans ht)
      (fun e he => hi e (hfirst.inbox he)) hrest)

end halted

/-- Settles O47, move by move. -/
theorem haltedLastsUntilRestart : Obligations.HaltedLastsUntilRestart := by
  intro n s t hp ht hs hi hx
  have h := moves_staysHalted hp hs n ht hi hx
  obtain ⟨-, hstore, htrace, hline, htx⟩ := h.effect.unchanged
  exact ⟨h.phase, htrace, hline, htx.trans ht, hstore⟩

end Sys2Proof.Machine
end

section
/-! SUPPORT. The reset and hazards family, the configuration check (R252): what one check over pairs or over single
profiles finds, and in what order the five are made. -/

namespace Sys2Proof.Machine

/-! ## One check -/

section
variable {α : Type} [DecidableEq α] (reason : ConfigReason) (key : Profile → α) (ps : List Profile)

/-- A check over pairs passes where the key tells any two profiles apart. -/
theorem pairCheck_eq_none :
    pairCheck reason (fun p q => decide (key p = key q)) ps = none ↔ (ps.map key).Nodup := by
  rw [pairCheck, Option.map_eq_none_iff, firstPair_eq_none, List.Nodup, List.pairwise_map]
  simp only [decide_eq_false_iff_not, ne_eq]

variable {reason key ps} {reason' : ConfigReason} {r1 r2 : Nat}

/-- A check over pairs reports the lowest pair of profiles with one key. -/
theorem pairCheck_eq_some (h : pairCheck reason (fun p q => decide (key p = key q)) ps = some (reason', r1, r2)) :
    reason' = reason ∧ ∃ p q, ps[r1]? = some p ∧ ps[r2]? = some q ∧ r1 < r2 ∧ key p = key q ∧
      ∀ a b x y, ps[a]? = some x → ps[b]? = some y → a < b → key x = key y → r1 < a ∨ r1 = a ∧ r2 ≤ b := by
  obtain ⟨r, hr, heq⟩ := Option.map_eq_some_iff.1 h
  cases heq
  obtain ⟨n, m, p, q, hn, hm, hlt, hp, hq, hkey, hleast⟩ := firstPair_eq_some _ _ _ _ _ hr
  rw [Nat.zero_add] at hn hm
  rw [hn, hm]
  exact ⟨rfl, p, q, hp, hq, hlt, of_decide_eq_true hkey, fun a b x y hx hy hab hxy =>
    hleast a b x y hx hy hab (decide_eq_true hxy)⟩

end

section
variable (reason : ConfigReason) (bad : Profile → Bool) (ps : List Profile)

theorem singleCheck_eq_none : singleCheck reason bad ps = none ↔ ∀ p ∈ ps, bad p = false := by
  rw [singleCheck, Option.map_eq_none_iff, firstIndex_eq_none]

variable {reason bad ps} {reason' : ConfigReason} {r1 r2 : Nat}

/-- A check over single profiles reports the lowest bad one, twice. -/
theorem singleCheck_eq_some (h : singleCheck reason bad ps = some (reason', r1, r2)) :
    reason' = reason ∧ r1 = r2 ∧ ∃ p, ps[r1]? = some p ∧ bad p = true ∧
      ∀ a x, ps[a]? = some x → bad x = true → r1 ≤ a := by
  obtain ⟨r, hr, heq⟩ := Option.map_eq_some_iff.1 h
  cases heq
  obtain ⟨n, p, hn, hp, hbad, hleast⟩ := firstIndex_eq_some _ _ _ _ hr
  rw [Nat.zero_add] at hn
  rw [hn]
  exact ⟨rfl, rfl, p, hp, hbad, hleast⟩

end

/-! ## The five checks -/

/-- Settles O52: each of the five checks passes exactly under its own condition. -/
theorem configCheckAcceptsExactlyTheLegalOnes : Obligations.ConfigCheckAcceptsExactlyTheLegalOnes := by
  intro cw cfg
  simp only [configCheck, Option.or_eq_none_iff, pairCheck_eq_none _ Profile.id, pairCheck_eq_none _ Profile.topicKey,
    pairCheck_eq_none _ Profile.slot, singleCheck_eq_none, decide_eq_false_iff_not, not_le]

/-- Settles O53: a check is made only where those before it passed, and it reports its own first failure. -/
theorem configCheckReportsTheFirstFailure : Obligations.ConfigCheckReportsTheFirstFailure := by
  intro cw cfg reason r1 r2 h
  simp only [configCheck, Option.or_eq_some_iff, pairCheck_eq_none _ Profile.id, pairCheck_eq_none _ Profile.topicKey,
    pairCheck_eq_none _ Profile.slot, singleCheck_eq_none, decide_eq_false_iff_not, not_le] at h
  rcases h with h | ⟨hids, h | ⟨hkeys, h | ⟨hslots, h | ⟨hrange, h⟩⟩⟩⟩
  · obtain ⟨rfl, p, q, hp, hq, hlt, hsame, hleast⟩ := pairCheck_eq_some (key := Profile.id) h
    exact ⟨p, q, hp, hq, hlt, hsame, hleast⟩
  · obtain ⟨rfl, p, q, hp, hq, hlt, hsame, hleast⟩ := pairCheck_eq_some (key := Profile.topicKey) h
    exact ⟨p, q, hp, hq, hlt, hsame, hids, hleast⟩
  · obtain ⟨rfl, p, q, hp, hq, hlt, hsame, hleast⟩ := pairCheck_eq_some (key := Profile.slot) h
    exact ⟨p, q, hp, hq, hlt, hsame, hids, hkeys, hleast⟩
  · obtain ⟨rfl, rfl, p, hp, hbad, hleast⟩ := singleCheck_eq_some h
    exact ⟨p, p, hp, hp, rfl, of_decide_eq_true hbad, hids, hkeys, hslots, fun a x hx hxbad =>
      hleast a x hx (decide_eq_true hxbad)⟩
  · obtain ⟨rfl, rfl, p, hp, hbad, hleast⟩ := singleCheck_eq_some h
    exact ⟨p, p, hp, hp, rfl, of_decide_eq_true hbad, hids, hkeys, hslots, hrange, fun a x hx hxbad =>
      hleast a x hx (decide_eq_true hxbad)⟩

end Sys2Proof.Machine
end

section
/-! SUPPORT. The reset and hazards family, a restart between two moves (R250) and the boot sequence (R251). -/

namespace Sys2Proof.Machine

/-! ## A restart between two moves -/

/-- A restart is served at once, whether a burst runs or not (R178, R250). -/
theorem step_of_restart {cfg : Configuration} {rest : List Event} {s : State} (hi : s.inbox = .restart cfg :: rest) :
    step s = .next (restart cfg { s with inbox := rest }) := by
  cases ht : s.tx with
  | idle => exact (step_of_idle_event ht hi).trans (by rw [handleEvent, ht])
  | busy g k j => rw [step_of_busy ht, burstMove, hi, ht]

/-- Settles O49, field by field. -/
theorem restartGivesResetValuesAndKeepsTheStore : Obligations.RestartGivesResetValuesAndKeepsTheStore :=
  fun _ _ _ hi => ⟨_, step_of_restart hi, rfl, rfl, rfl, rfl, rfl, rfl, rfl, rfl, rfl, rfl, rfl, rfl⟩

/-! ## The ways through the boot sequence -/

section
variable {rest : List Event} {s : State}

/-- The boot event, and an idle move with no event to come, run the boot sequence (log 1, log 2). -/
theorem step_of_boot (ht : s.tx = .idle) (hi : s.inbox = .boot :: rest ∨ s.inbox = [] ∧ rest = []) :
    step s = .next (boot { s with inbox := rest }) := by
  rcases hi with hi | ⟨hi, rfl⟩
  · exact step_of_idle_event ht hi
  · rw [step_of_idle_empty ht hi, ← hi]

theorem boot_of_not_startup (hp : s.phase ≠ .startup) : boot s = s := if_neg hp

variable (hp : s.phase = .startup)
include hp

theorem boot_of_startup : boot s = bootSequence s := if_pos hp

theorem boot_of_failed_check {reason : ConfigReason} {r1 r2 : Nat}
    (hcheck : configCheck s.codeWidth s.config = some (reason, r1, r2)) :
    boot s = haltWith (.configError reason r1 r2) s := by
  rw [boot_of_startup hp, bootSequence, hcheck]

variable (hcheck : configCheck s.codeWidth s.config = none)
include hcheck

theorem boot_without_reset (hreq : s.config.resetReq = false) : boot s = { s with phase := .run } := by
  simp [boot_of_startup hp, bootSequence, hcheck, hreq]

theorem boot_with_reset (hreq : s.config.resetReq = true) :
    boot s = finishBoot (resetEach (profileDefaults s.config) s) := by
  simp [boot_of_startup hp, bootSequence, hcheck, hreq]

end

theorem haltWith_eq (s : State) (e : ErrorRecord) (hs : s.staged = []) :
    haltWith e s
      = { s with phase := .halted, errlog := s.errlog ++ [e], result := some (.error e) } := by
  rw [haltWith, raise_eq s e hs]

/-! ## The list the boot sequence gives `RESET_ALL` -/

/-- The slot and default of each of some profiles, in order (R148). -/
def slotDefaults (ps : List Profile) : List (Slot × Nat) := ps.map fun p => (p.slot, p.defaultCode)

theorem profileDefaults_eq_slotDefaults (cfg : Configuration) : profileDefaults cfg = slotDefaults cfg.profiles := rfl

@[simp] theorem length_slotDefaults (ps : List Profile) : (slotDefaults ps).length = ps.length := List.length_map _

theorem map_fst_slotDefaults (ps : List Profile) : (slotDefaults ps).map Prod.fst = ps.map Profile.slot := by
  simp [slotDefaults]

section
variable (m : Memory) {pre post : List Profile} (h : ((pre ++ post).map Profile.slot).Nodup) {q : Profile}
include h

/-- A reset of the profiles `pre` leaves each of them at its default, their slots being distinct (R252, check 3). -/
theorem read_writeAll_slotDefaults_of_mem (hq : q ∈ pre) :
    (m.writeAll (slotDefaults pre)).read q.slot = .value q.defaultCode := by
  rw [List.map_append] at h
  exact Memory.read_writeAll_mem (slotDefaults pre) m (by rw [map_fst_slotDefaults]; exact h.of_append_left)
    (q.slot, q.defaultCode) (List.mem_map_of_mem hq)

/-- It leaves the slots of the profiles behind them as they were. -/
theorem read_writeAll_slotDefaults_of_later (hq : q ∈ post) :
    (m.writeAll (slotDefaults pre)).read q.slot = m.read q.slot := by
  rw [List.map_append] at h
  refine Memory.read_writeAll_other (slotDefaults pre) m q.slot ?_
  rw [map_fst_slotDefaults]
  exact fun hpre => List.disjoint_of_nodup_append h hpre (List.mem_map_of_mem hq)

end

/-! ## The obligations on the boot sequence -/

/-- Settles O50: each way through the sequence, the reset with all its writes committed. -/
theorem bootSequenceHolds : Obligations.BootSequence := by
  intro rest s ht hs hi
  rw [step_of_boot ht hi]
  refine ⟨fun hp => ?_, fun hp => ⟨fun reason r1 r2 hcheck => ?_, fun hcheck hreq => ?_, fun hcheck hreq hcalls => ?_⟩⟩
  · rw [boot_of_not_startup (s := { s with inbox := rest }) hp]
  · rw [boot_of_failed_check (s := { s with inbox := rest }) hp hcheck, haltWith_eq { s with inbox := rest } _ hs]
  · rw [boot_without_reset (s := { s with inbox := rest }) hp hcheck hreq]
  · rw [boot_with_reset (s := { s with inbox := rest }) hp hcheck hreq, profileDefaults_eq_slotDefaults,
      resetEach_ok (s := { s with inbox := rest }) hs (by rw [length_slotDefaults]; exact hcalls), length_slotDefaults]
    simp [finishBoot, State.commitTo, State.afterDraws, slotDefaults, hs]

/-- Settles O51: the reset stops at the failing call with the writes for `pre` committed, and a checked configuration
has distinct slots. -/
theorem failedBootResetHalts : Obligations.FailedBootResetHalts := by
  intro pre post p stage n rest s ht hi hs hp hreq hps hcheck hn hcalls hfail
  obtain ⟨-, -, hslots, -⟩ := (configCheckAcceptsExactlyTheLegalOnes _ _).1 hcheck
  rw [hps] at hslots
  have hsplit : profileDefaults s.config = slotDefaults pre ++ (p.slot, p.defaultCode) :: slotDefaults post := by
    simp [profileDefaults_eq_slotDefaults, hps, slotDefaults]
  have hstage : n = 2 * (slotDefaults pre).length ∧ stage = .write ∨
      n = 2 * (slotDefaults pre).length + 1 ∧ stage = .commit := by
    simpa using hn
  have herr := resetEach_err (s := { s with inbox := rest }) hs hsplit hstage ⟨hcalls, hfail⟩
  rw [step_of_boot ht hi, boot_with_reset (s := { s with inbox := rest }) hp hcheck hreq, herr]
  exact ⟨_, rfl, rfl, rfl, rfl, fun q hq => read_writeAll_slotDefaults_of_mem s.store hslots hq,
    fun q hq => read_writeAll_slotDefaults_of_later s.store hslots hq⟩

end Sys2Proof.Machine
end

section
/-! SUPPORT. The reset and hazards family, codes across restarts (R257): what a take leaves in its slot when a restart
cuts it, and that a code that went on the line is not taken again. -/

namespace Sys2Proof.Machine

/-! ## What a cut take leaves in its slot -/

section
variable {slot : Slot} {s : State} {n : Nat} (d : Nat) (hs : s.staged = []) (hfail : FirstFailure s n)
include hs hfail

/-- On a counter at c the one commit of a take is its call 2 (R257, points 1 and 3). -/
theorem read_takeAndAdvance_of_held {c : Nat} (hr : s.store.read slot = .value c) :
    (takeAndAdvance slot d s).state.store.read slot
      = if n ≤ 2 ∨ c = 2 ^ s.codeWidth - 1 then .value c else .value (c + 1) := by
  obtain ⟨hcalls, hf⟩ := hfail
  by_cases hc : c = 2 ^ s.codeWidth - 1
  · rw [if_pos (.inr hc)]
    cases h0 : s.drawAt 0 with
    | true => rw [takeAndAdvance_readFails slot d s h0]; exact hr
    | false => rw [takeAndAdvance_exhausted d hr h0 hc]; exact hr
  · match n with
    | 0 => rw [takeAndAdvance_readFails slot d s hf]; exact hr
    | 1 => rw [takeAndAdvance_held_writeFails d hr hs hc hcalls hf]; exact hr
    | 2 => rw [takeAndAdvance_held_commitFails d hr hs hc hcalls hf]; exact hr
    | n + 3 =>
      rw [if_neg (by omega), takeAndAdvance_held d hr hs hc fun i hi => hcalls i (by omega)]
      exact Memory.read_write_same _ _ _

/-- On an absent slot the default's commit is call 2 and the advance's is call 4 (R142, R257). -/
theorem read_takeAndAdvance_of_absent (hr : s.store.read slot = .absent) :
    (takeAndAdvance slot d s).state.store.read slot
      = if n ≤ 2 then .absent else if n ≤ 4 ∨ d = 2 ^ s.codeWidth - 1 then .value d else .value (d + 1) := by
  obtain ⟨hcalls, hf⟩ := hfail
  match n with
  | 0 => rw [takeAndAdvance_readFails slot d s hf]; exact hr
  | 1 => rw [takeAndAdvance_default_writeFails hr hs hcalls hf]; exact hr
  | 2 => rw [takeAndAdvance_default_commitFails hr hs hcalls hf]; exact hr
  | n + 3 =>
    rw [if_neg (by omega)]
    by_cases hd : d = 2 ^ s.codeWidth - 1
    · rw [if_pos (.inr hd), takeAndAdvance_default_exhausted hr hs (fun i hi => hcalls i (by omega)) hd]
      exact Memory.read_write_same _ _ _
    · match n with
      | 0 => rw [takeAndAdvance_fresh_writeFails hr hs hd hcalls hf]; exact Memory.read_write_same _ _ _
      | 1 => rw [takeAndAdvance_fresh_commitFails hr hs hd hcalls hf]; exact Memory.read_write_same _ _ _
      | n + 2 =>
        rw [if_neg (by omega), takeAndAdvance_fresh hr hs hd fun i hi => hcalls i (by omega)]
        exact Memory.read_write_same _ _ _

end

/-! ## The requests that take a code -/

/-- The requests that take from `slot` with the default `d` (R141, R200, R205): the operation itself with a default that
fits, `SEND_COMMAND` for a profile that names both, or a payload letter for it. -/
def TakesFrom (slot : Slot) (d : Nat) (s : State) (req : Request) : Prop :=
  (∃ args, req = .select 0x03#8 args ∧ args.slot = slot ∧ args.dflt = d ∧ d < 2 ^ s.codeWidth) ∨
  ∃ r p, s.config.profiles[r]? = some p ∧ p.slot = slot ∧ p.defaultCode = d ∧
    ((∃ args, req = .select 0x06#8 args ∧ args.remote = r) ∨
      ∃ b : Byte, b ∈ [0x75#8, 0x73#8, 0x64#8, 0x70#8] ∧ req = .payload r [b])

theorem serve_takeAndAdvance (args : Operands) {s : State} (hd : args.dflt < 2 ^ s.codeWidth) :
    serve (.select 0x03#8 args) s = exec (.takeAndAdvance args.slot args.dflt) s :=
  serveWith_of_ok rfl (decide_eq_true hd)

theorem serve_sendCommand (args : Operands) (s : State) :
    serve (.select 0x06#8 args) s = exec (.sendCommand args.remote args.cmd) s :=
  serveWith_of_ok rfl rfl

/-- Each of the four letters is served as `SEND_COMMAND` of its command (R205). -/
theorem serve_letter (r : Nat) {b : Byte} (hb : b ∈ [0x75#8, 0x73#8, 0x64#8, 0x70#8]) :
    ∃ cmd, ∀ s, serve (.payload r [b]) s = exec (.sendCommand r cmd) s := by
  simp only [List.mem_cons, List.not_mem_nil, or_false] at hb
  rcases hb with rfl | rfl | rfl | rfl
  · exact ⟨.up, serve_payloadLetter .up r⟩
  · exact ⟨.stop, serve_payloadLetter .stop r⟩
  · exact ⟨.down, serve_payloadLetter .down r⟩
  · exact ⟨.prog, serve_payloadLetter .prog r⟩

@[simp] theorem Res.state_andThen_ok {α β : Type} (r : Res α) (f : α → β) :
    (r.andThen fun a s => .ok (f a) s).state = r.state := by
  cases r <;> rfl

section
variable {slot : Slot} {d : Nat} {s : State}

/-- Return or raise, an operation's end leaves the store as its store part left it. -/
theorem StoreOnly.leavesStore_finish {r : Res Result} (h : StoreOnly s r.state) :
    LeavesStore s r.finish r.state.store := by
  cases r <;> exact ⟨h.codeWidth, h.inbox, rfl⟩

/-- So does the end of an operation that sends: the burst does not touch the store (R174). -/
theorem StoreOnly.leavesStore_finishBurst {r : Res (Frame × Result)} (h : StoreOnly s r.state) :
    LeavesStore s (finishBurst r) r.state.store := by
  cases r with
  | ok gv m =>
    obtain ⟨g, v⟩ := gv
    rw [finishBurst_ok]
    exact ⟨h.codeWidth, h.inbox, rfl⟩
  | err e m => exact ⟨h.codeWidth, h.inbox, rfl⟩

variable (hp : s.phase = .run)
include hp

theorem execTakeAndAdvance_leavesStore :
    ∃ u, exec (.takeAndAdvance slot d) s = .next u ∧ LeavesStore s u (takeAndAdvance slot d s).state.store := by
  refine ⟨_, exec_takeAndAdvance d hp, ?_⟩
  rw [← Res.state_andThen_ok _ Result.code]
  refine StoreOnly.leavesStore_finish ?_
  rw [Res.state_andThen_ok]
  exact takeAndAdvance_storeOnly slot d s

theorem execSendCommand_leavesStore {r : Nat} {p : Profile} (hr : s.config.profiles[r]? = some p) (cmd : Command) :
    ∃ u, exec (.sendCommand r cmd) s = .next u ∧
      LeavesStore s u (takeAndAdvance p.slot p.defaultCode s).state.store := by
  have hstate : (prepareFor p cmd s).state = (takeAndAdvance p.slot p.defaultCode s).state :=
    Res.state_andThen_ok _ fun c => (buildFrame (BitVec.ofNat 24 p.id) cmd (frameCode c), Result.code c)
  refine ⟨_, rfl, ?_⟩
  rw [prepareSend_of_known cmd hp hr, ← hstate]
  exact (prepareFor_storeOnly p cmd s).leavesStore_finishBurst

/-- In RUN each of these requests changes the store as the take does. -/
theorem TakesFrom.leavesStore {req : Request} (h : TakesFrom slot d s req) :
    ∃ u, serve req s = .next u ∧ LeavesStore s u (takeAndAdvance slot d s).state.store := by
  rcases h with ⟨args, rfl, rfl, rfl, hd⟩ | ⟨r, p, hr, rfl, rfl, ⟨args, rfl, rfl⟩ | ⟨b, hb, rfl⟩⟩
  · rw [serve_takeAndAdvance args hd]; exact execTakeAndAdvance_leavesStore hp
  · rw [serve_sendCommand]; exact execSendCommand_leavesStore hp hr args.cmd
  · obtain ⟨cmd, hserve⟩ := serve_letter r hb
    rw [hserve]; exact execSendCommand_leavesStore hp hr cmd

end

/-- Settles O54: the cut call is the first failing one, the store is what the take left then, and the restart lets only
that through. -/
theorem crashWindowsLeaveTheCommittedCounter : Obligations.CrashWindowsLeaveTheCommittedCounter := by
  intro n slot d cfg req rest s ht hs hp htakes hi
  have hfail := cutState_firstFailure n { s with inbox := rest }
  obtain ⟨u, hserve, hleft⟩ :=
    TakesFrom.leavesStore (s := cutState n { s with inbox := rest }) (slot := slot) (d := d) hp htakes
  have heffect := takeAndAdvance_effect (s := cutState n { s with inbox := rest }) slot d hs
  exact ⟨_, (step_of_idle_event ht hi).trans ((congrArg (afterCut cfg { s with inbox := rest }) hserve).trans
      (afterCut_of_leavesStore cfg n hs hleft)), rfl,
    fun a ha => heffect.read_other (mt List.mem_singleton.1 ha),
    fun c hr => read_takeAndAdvance_of_held (s := cutState n { s with inbox := rest }) d hs hfail hr,
    fun hr => read_takeAndAdvance_of_absent (s := cutState n { s with inbox := rest }) d hs hfail hr⟩

/-! ## A code on the line -/

/-- A sending form that returned c found it in its profile's slot or used it as the default. -/
theorem exec_send_code {i : Instr} {r c : Nat} {cmd : Command} {p : Profile} {s t : State} (hs : s.staged = [])
    (hr : s.config.profiles[r]? = some p)
    (hi : i ∈ [Instr.sendCommand r cmd, Instr.sendU r, Instr.sendS r, Instr.sendD r, Instr.sendP r])
    (hx : exec i s = .next t) (hc : t.result = some (.code c)) :
    s.store.read p.slot = .value c ∨ s.store.read p.slot = .absent ∧ c = p.defaultCode := by
  obtain ⟨cmd', hexec⟩ := exec_of_sending_form s hi
  cases hexec.symm.trans hx
  rcases prepareSend_cases r cmd' s with ⟨_, he⟩ | ⟨_, _, he⟩ | ⟨q, _, hq, he⟩ <;> rw [he] at hc
  · cases hc
  · cases hc
  · cases hq.symm.trans hr
    rw [prepareFor] at hc
    cases htake : takeAndAdvance p.slot p.defaultCode s with
    | err e m => rw [htake] at hc; cases hc
    | ok c' m =>
      rw [htake] at hc
      cases hc
      obtain ⟨_, _, _, hread⟩ := takeAndAdvance_ok hs htake
      exact hread

/-- A code that was held in its slot or else a default is the one a counter holds. -/
theorem Memory.eq_of_held {m : Memory} {slot : Slot} {c d w : Nat}
    (h : m.read slot = .value c ∨ m.read slot = .absent ∧ c = d) (hw : m.read slot = .value w) : c = w := by
  rcases h with hc | ⟨habs, -⟩
  · cases hc.symm.trans hw; rfl
  · cases habs.symm.trans hw

/-- Settles O60: the burst began with its code's successor committed, no move lowers that, and a later take returns what
is held. -/
theorem codeOnTheLineIsNeverTakenAgain : Obligations.CodeOnTheLineIsNeverTakenAgain := by
  intro g k j c s hinv htx hburst
  obtain ⟨p, hp, cmd, hg, hcommitted⟩ := hinv.durable g k j c htx hburst
  refine ⟨p, hp, cmd, hg, fun n d r c' cmd' q i t u hrun hi hx hc' => ?_⟩
  have hkeeps := hrun.keepsCounters hinv.nothingStaged
  obtain ⟨w, hw, hcw⟩ := hkeeps.notLowered p.slot (c + 1) hcommitted
  have htaken : c' = w := by
    rcases hi with rfl | ⟨hq, hslot, hi⟩
    · obtain ⟨-, -, hread⟩ := exec_take_code hkeeps.nothingStaged hx hc'
      exact Memory.eq_of_held hread hw
    · rw [← hslot] at hw
      exact Memory.eq_of_held (exec_send_code hkeeps.nothingStaged hq hi hx hc') hw
  omega

end Sys2Proof.Machine
end

section
/-! SUPPORT. The reset and hazards family, bursts in `TRACE` (R260): where each stands, and when it starts. -/

namespace Sys2Proof.Machine

variable (sent : List Frame)

theorem length_flatMap_burst : (sent.flatMap burst).length = 379 * sent.length := by
  induction sent with
  | nil => rfl
  | cons g sent ih => rw [List.flatMap_cons, List.length_append, length_burst, ih, List.length_cons]; omega

theorem totalUs_flatMap_burst : totalUs (sent.flatMap burst) = 502755 * sent.length := by
  rw [totalUs_flatMap_of_const totalUs_burst, Nat.mul_comm]

section
variable {sent} (tail : List Segment) {n : Nat} (hn : n ≤ sent.length)
include hn

/-- The first n bursts of a trace are its first 379 n segments (R175). -/
theorem take_bursts : (sent.flatMap burst ++ tail).take (379 * n) = (sent.take n).flatMap burst := by
  conv_lhs => rw [← List.take_append_drop n sent]
  rw [List.flatMap_append, List.append_assoc]
  refine List.take_left' ?_
  rw [length_flatMap_burst, List.length_take_of_le hn]

theorem drop_bursts :
    (sent.flatMap burst ++ tail).drop (379 * n) = (sent.drop n).flatMap burst ++ tail := by
  conv_lhs => rw [← List.take_append_drop n sent]
  rw [List.flatMap_append, List.append_assoc]
  refine List.drop_left' ?_
  rw [length_flatMap_burst, List.length_take_of_le hn]

theorem burstStartUs_bursts (gap : Nat → Nat) :
    burstStartUs gap (sent.flatMap burst ++ tail) n = ((List.range (n + 1)).map gap).sum + 502755 * n := by
  rw [burstStartUs, segmentsPerBurst, take_bursts tail hn, totalUs_flatMap_burst, List.length_take_of_le hn]

end

/-- Burst number n stands whole at segment 379 n (R174, R175). -/
theorem burst_at {sent : List Frame} (tail : List Segment) {n : Nat} {f : Frame} (hf : sent[n]? = some f) :
    ((sent.flatMap burst ++ tail).drop (379 * n)).take 379 = burst f := by
  obtain ⟨hn, rfl⟩ := List.getElem?_eq_some_iff.1 hf
  rw [drop_bursts tail hn.le, List.drop_eq_getElem_cons hn, List.flatMap_cons, List.append_assoc]
  exact List.take_left' (length_burst _)

/-- No gap is negative, so the gaps before a later burst are not less in sum. -/
theorem sum_gaps_mono (gap : Nat → Nat) {n m : Nat} (h : n ≤ m) :
    ((List.range n).map gap).sum ≤ ((List.range m).map gap).sum :=
  ((List.range_sublist.2 h).map gap).sum_le_sum fun _ _ => Nat.zero_le _

/-- Between the starts of two bursts at least one whole burst is sent, whatever the gaps (R260). -/
theorem burstStartUs_apart {sent : List Frame} (tail : List Segment) (gap : Nat → Nat) {n m : Nat} (hlt : n < m)
    (hm : m ≤ sent.length) :
    burstStartUs gap (sent.flatMap burst ++ tail) n + 502755 ≤ burstStartUs gap (sent.flatMap burst ++ tail) m := by
  have hgaps := sum_gaps_mono gap (Nat.add_le_add_right hlt.le 1)
  rw [burstStartUs_bursts tail (hlt.le.trans hm), burstStartUs_bursts tail hm]
  omega

/-- What is emitted of the running burst; nothing where none runs. -/
def emittedOfRunning : Tx → List Segment
  | .idle => []
  | .busy g k j => emittedBefore g k j

/-- `TRACE` is whole bursts and then what is emitted of the running one, with a burst or without (R178). -/
theorem BlockInvariant.trace_eq {s : State} (h : BlockInvariant s) :
    ∃ sent : List Frame, s.trace = sent.flatMap burst ++ emittedOfRunning s.tx := by
  obtain ⟨sent, hsent⟩ := h.wholeBursts
  refine ⟨sent, ?_⟩
  cases htx : s.tx with
  | idle => rw [htx] at hsent; exact hsent.trans (List.append_nil _).symm
  | busy g k j => rw [htx] at hsent; exact hsent

/-- Settles O33: the bursts of the invariant's `traceShape`, placed and timed. -/
theorem burstsStartAtLeastOneBurstApart : Obligations.BurstsStartAtLeastOneBurstApart := by
  intro s hinv
  obtain ⟨sent, htrace⟩ := hinv.trace_eq
  rw [htrace]
  refine ⟨sent, fun htx => ?_, fun g k j htx => ?_, fun n f hf => burst_at _ hf,
    fun gap n m => burstStartUs_apart _ gap⟩
  · rw [htx, emittedOfRunning, List.append_nil, length_flatMap_burst]
  · rw [htx, drop_bursts _ (Nat.le_refl _), List.drop_length]; rfl

end Sys2Proof.Machine
end
